-- ==== Sys2Proof/Word.lean ====
section
/-!
DEFINITION. The words of the TLCS-900/L and the three operand sizes
(00_scope.md R8, 30_encoding.md R62).
-/

namespace Sys2Proof

/-- One byte of memory or of an instruction. -/
abbrev Byte := BitVec 8

/-- A 32-bit register or address value (10_state.md R10, 20_memory.md R41). -/
abbrev Word32 := BitVec 32

/-- The operand sizes B, W, L (00_scope.md R8). -/
inductive Size where
  | B
  | W
  | L
  deriving DecidableEq, Repr

namespace Size

/-- `bits(sz)` of 00_scope.md R8. -/
@[reducible] def bits : Size → Nat
  | B => 8
  | W => 16
  | L => 32

/-- `bytes(sz)` of 00_scope.md R8. -/
def bytes : Size → Nat
  | B => 1
  | W => 2
  | L => 4

/-- The size code `zz`: byte 00, word 01, long word 10 (30_encoding.md R62). -/
def code : Size → BitVec 2
  | B => 0
  | W => 1
  | L => 2

/-- The size of a double-width destination: a byte operation writes a word, a word
operation a long word (44_arithmetic.md R142). No rule doubles a long word. -/
@[reducible] def double : Size → Size
  | B => W
  | W => L
  | L => L

end Size

end Sys2Proof
end

