-- ==== Sys2Proof/Syntax.lean ====
section
/-!
DEFINITION. The instructions: one constructor of `Instr` for each of the 211 rows of
spec/opcode_table.json, in the table's order, with the operands of 30_encoding.md
R63 to R78.
-/

namespace Sys2Proof

/-- The four banked registers by their 32-bit names (10_state.md R10). -/
inductive BankedReg where
  | xwa
  | xbc
  | xde
  | xhl
  deriving DecidableEq, Repr

/-- The four fixed registers (10_state.md R10). -/
inductive FixedReg where
  | xix
  | xiy
  | xiz
  | xsp
  deriving DecidableEq, Repr

/-- The operand `r` of a REG prefix: a 3-bit code (30_encoding.md R64) or the 8-bit
code of the extension prefix (R65). The two spellings stay apart because the second
makes the instruction one byte longer. -/
inductive RegOp where
  | short (c : BitVec 3)
  | ext (code : BitVec 8)
  deriving DecidableEq, Repr

/-- The step of a pre-decrement or post-increment mode (30_encoding.md R74, R75). -/
inductive Step where
  | one
  | two
  | four
  deriving DecidableEq, Repr

/-- The memory operand `(mem)` or `mem` (30_encoding.md R70 to R75). A register of the
3-bit modes is `R`; `r32` is "upper 6 bits of register code"; `base` and `idx` are
8-bit register codes. -/
inductive MemOp where
  /-- `(R)`, R70. -/
  | ind (R : BitVec 3)
  /-- `(R + d8)`, R70. -/
  | disp8 (R : BitVec 3) (d : BitVec 8)
  /-- `(#8)`, R71. -/
  | abs8 (a : BitVec 8)
  /-- `(#16)`, R71. -/
  | abs16 (a : BitVec 16)
  /-- `(#24)`, R71. -/
  | abs24 (a : BitVec 24)
  /-- `(r32)`, R72. -/
  | indExt (r32 : BitVec 6)
  /-- `(r32 + d16)`, R72. -/
  | disp16 (r32 : BitVec 6) (d : BitVec 16)
  /-- `(r32 + r8)`, R73. -/
  | index8 (base idx : BitVec 8)
  /-- `(r32 + r16)`, R73. -/
  | index16 (base idx : BitVec 8)
  /-- `(-r32)`, R74. -/
  | preDec (r32 : BitVec 6) (step : Step)
  /-- `(r32+)`, R75. -/
  | postInc (r32 : BitVec 6) (step : Step)
  deriving DecidableEq, Repr

/-- The sixteen condition codes (30_encoding.md R78), in the order of their codes. -/
inductive Cond where
  | f
  | lt
  | le
  | ule
  | ov
  | mi
  | z
  | c
  | t
  | ge
  | gt
  | ugt
  | nov
  | pl
  | nz
  | nc
  deriving DecidableEq, Repr

namespace Cond

/-- The 4-bit code of a condition (30_encoding.md R78). -/
def code : Cond → BitVec 4
  | f => 0
  | lt => 1
  | le => 2
  | ule => 3
  | ov => 4
  | mi => 5
  | z => 6
  | c => 7
  | t => 8
  | ge => 9
  | gt => 10
  | ugt => 11
  | nov => 12
  | pl => 13
  | nz => 14
  | nc => 15

end Cond

/-- The two pointer pairs of the block transfers: `(XDE),(XHL)` and `(XIX),(XIY)`
(43_block.md R115). -/
inductive BlockPair where
  | deHl
  | ixIy
  deriving DecidableEq, Repr

namespace BlockPair

/-- The 3-bit code of the source pointer, which the prefix names (43_block.md R115):
XHL 011, XIY 101. -/
def code : BlockPair → BitVec 3
  | deHl => 3
  | ixIy => 5

end BlockPair

/-- The instructions. A size argument `sz` stands where the table's row has more than
one size; an immediate `imm` has the operand size. -/
inductive Instr where
  /-- `NOP` (R190). -/
  | nop
  /-- `PUSH SR` (R194). -/
  | pushSR
  /-- `POP SR` (R195). -/
  | popSR
  /-- `MIN` (R191). -/
  | min
  /-- `HALT` (R197). -/
  | halt
  /-- `DI` (R193). -/
  | di
  /-- `EI #3` (R192). -/
  | ei (n : BitVec 3)
  /-- `RETI` (R238). -/
  | reti
  /-- `LD (#8),#8` (R100). -/
  | ldA8I8 (a : BitVec 8) (v : BitVec 8)
  /-- `PUSH #8` (R101). -/
  | pushI8 (v : BitVec 8)
  /-- `LDW (#8),#16` (R100). -/
  | ldwA8I16 (a : BitVec 8) (v : BitVec 16)
  /-- `PUSHW #16` (R101). -/
  | pushwI16 (v : BitVec 16)
  /-- `INCF` (R203). -/
  | incf
  /-- `DECF` (R204). -/
  | decf
  /-- `RET` (R236). -/
  | ret
  /-- `RETD d16` (R237). -/
  | retd (d : BitVec 16)
  /-- `RCF` (R175). -/
  | rcf
  /-- `SCF` (R176). -/
  | scf
  /-- `CCF` (R177). -/
  | ccf
  /-- `ZCF` (R178). -/
  | zcf
  /-- `PUSH A` (R101). -/
  | pushA
  /-- `POP A` (R102). -/
  | popA
  /-- `EX F,F'` (R110). -/
  | exFF
  /-- `LDF #3` (R202). -/
  | ldf (n : BitVec 3)
  /-- `PUSH F` (R101). -/
  | pushF
  /-- `POP F` (R102). -/
  | popF
  /-- `JP #16` (R230). -/
  | jp16 (a : BitVec 16)
  /-- `JP #24` (R230). -/
  | jp24 (a : BitVec 24)
  /-- `CALL #16` (R233). -/
  | call16 (a : BitVec 16)
  /-- `CALL #24` (R233). -/
  | call24 (a : BitVec 24)
  /-- `CALR $+3+d16` (R234). -/
  | calr (d : BitVec 16)
  /-- `LD R,#8` (R100). -/
  | ldRI8 (R : BitVec 3) (v : BitVec 8)
  /-- `PUSH R (word)` (R101). -/
  | pushRW (R : BitVec 3)
  /-- `LD R,#16` (R100). -/
  | ldRI16 (R : BitVec 3) (v : BitVec 16)
  /-- `PUSH R (long word)` (R101). -/
  | pushRL (R : BitVec 3)
  /-- `LD R,#32` (R100). -/
  | ldRI32 (R : BitVec 3) (v : BitVec 32)
  /-- `POP R (word)` (R102). -/
  | popRW (R : BitVec 3)
  /-- `POP R (long word)` (R102). -/
  | popRL (R : BitVec 3)
  /-- `JR cc,$+2+d8` (R231). -/
  | jr (cc : Cond) (d : BitVec 8)
  /-- `JRL cc,$+3+d16` (R232). -/
  | jrl (cc : Cond) (d : BitVec 16)
  /-- `LDX (#8),#8` (R199). -/
  | ldx (a : BitVec 8) (v : BitVec 8)
  /-- `SWI #3` (R196). -/
  | swi (n : BitVec 3)
  /-- `LD r,#` (R100). -/
  | ldrI (sz : Size) (r : RegOp) (imm : BitVec sz.bits)
  /-- `PUSH r` (R101). -/
  | pushr (sz : Size) (r : RegOp)
  /-- `POP r` (R102). -/
  | popr (sz : Size) (r : RegOp)
  /-- `CPL r` (R163). -/
  | cplr (sz : Size) (r : RegOp)
  /-- `NEG r` (R137). -/
  | negr (sz : Size) (r : RegOp)
  /-- `MUL rr,#` (R142). -/
  | mulrrI (sz : Size) (r : RegOp) (imm : BitVec sz.bits)
  /-- `MULS rr,#` (R143). -/
  | mulsrrI (sz : Size) (r : RegOp) (imm : BitVec sz.bits)
  /-- `DIV rr,#` (R144). -/
  | divrrI (sz : Size) (r : RegOp) (imm : BitVec sz.bits)
  /-- `DIVS rr,#` (R145). -/
  | divsrrI (sz : Size) (r : RegOp) (imm : BitVec sz.bits)
  /-- `LINK r,d16` (R200). -/
  | link (r : RegOp) (d : BitVec 16)
  /-- `UNLK r` (R201). -/
  | unlk (r : RegOp)
  /-- `BS1F A,r` (R184). -/
  | bs1f (r : RegOp)
  /-- `BS1B A,r` (R185). -/
  | bs1b (r : RegOp)
  /-- `DAA r` (R140). -/
  | daa (r : RegOp)
  /-- `EXTZ r` (R138). -/
  | extz (sz : Size) (r : RegOp)
  /-- `EXTS r` (R139). -/
  | exts (sz : Size) (r : RegOp)
  /-- `PAA r` (R141). -/
  | paa (sz : Size) (r : RegOp)
  /-- `MIRR r` (R111). -/
  | mirr (r : RegOp)
  /-- `MULA rr` (R146). -/
  | mula (r : RegOp)
  /-- `DJNZ r,$+3+d8` (R235). -/
  | djnz (sz : Size) (r : RegOp) (d : BitVec 8)
  /-- `ANDCF #4,r` (R172). -/
  | andcfNr (sz : Size) (n : BitVec 4) (r : RegOp)
  /-- `ORCF #4,r` (R173). -/
  | orcfNr (sz : Size) (n : BitVec 4) (r : RegOp)
  /-- `XORCF #4,r` (R174). -/
  | xorcfNr (sz : Size) (n : BitVec 4) (r : RegOp)
  /-- `LDCF #4,r` (R170). -/
  | ldcfNr (sz : Size) (n : BitVec 4) (r : RegOp)
  /-- `STCF #4,r` (R171). -/
  | stcfNr (sz : Size) (n : BitVec 4) (r : RegOp)
  /-- `ANDCF A,r` (R172). -/
  | andcfAr (sz : Size) (r : RegOp)
  /-- `ORCF A,r` (R173). -/
  | orcfAr (sz : Size) (r : RegOp)
  /-- `XORCF A,r` (R174). -/
  | xorcfAr (sz : Size) (r : RegOp)
  /-- `LDCF A,r` (R170). -/
  | ldcfAr (sz : Size) (r : RegOp)
  /-- `STCF A,r` (R171). -/
  | stcfAr (sz : Size) (r : RegOp)
  /-- `LDC cr,r` (R198). -/
  | ldcCr (sz : Size) (cr : BitVec 8) (r : RegOp)
  /-- `LDC r,cr` (R198). -/
  | ldcR (sz : Size) (r : RegOp) (cr : BitVec 8)
  /-- `RES #4,r` (R180). -/
  | resNr (sz : Size) (n : BitVec 4) (r : RegOp)
  /-- `SET #4,r` (R181). -/
  | setNr (sz : Size) (n : BitVec 4) (r : RegOp)
  /-- `CHG #4,r` (R182). -/
  | chgNr (sz : Size) (n : BitVec 4) (r : RegOp)
  /-- `BIT #4,r` (R179). -/
  | bitNr (sz : Size) (n : BitVec 4) (r : RegOp)
  /-- `TSET #4,r` (R183). -/
  | tsetNr (sz : Size) (n : BitVec 4) (r : RegOp)
  /-- `MINC1 #,r` (R147). -/
  | minc1 (m : BitVec 16) (r : RegOp)
  /-- `MINC2 #,r` (R148). -/
  | minc2 (m : BitVec 16) (r : RegOp)
  /-- `MINC4 #,r` (R149). -/
  | minc4 (m : BitVec 16) (r : RegOp)
  /-- `MDEC1 #,r` (R150). -/
  | mdec1 (m : BitVec 16) (r : RegOp)
  /-- `MDEC2 #,r` (R151). -/
  | mdec2 (m : BitVec 16) (r : RegOp)
  /-- `MDEC4 #,r` (R152). -/
  | mdec4 (m : BitVec 16) (r : RegOp)
  /-- `MUL RR,r` (R142). -/
  | mulRr (sz : Size) (R : BitVec 3) (r : RegOp)
  /-- `MULS RR,r` (R143). -/
  | mulsRr (sz : Size) (R : BitVec 3) (r : RegOp)
  /-- `DIV RR,r` (R144). -/
  | divRr (sz : Size) (R : BitVec 3) (r : RegOp)
  /-- `DIVS RR,r` (R145). -/
  | divsRr (sz : Size) (R : BitVec 3) (r : RegOp)
  /-- `INC #3,r` (R135). -/
  | incNr (sz : Size) (n : BitVec 3) (r : RegOp)
  /-- `DEC #3,r` (R136). -/
  | decNr (sz : Size) (n : BitVec 3) (r : RegOp)
  /-- `SCC cc,r` (R205). -/
  | scc (sz : Size) (cc : Cond) (r : RegOp)
  /-- `ADD R,r` (R130). -/
  | addRr (sz : Size) (R : BitVec 3) (r : RegOp)
  /-- `LD R,r` (R100). -/
  | ldRr (sz : Size) (R : BitVec 3) (r : RegOp)
  /-- `ADC R,r` (R131). -/
  | adcRr (sz : Size) (R : BitVec 3) (r : RegOp)
  /-- `LD r,R` (R100). -/
  | ldrR (sz : Size) (r : RegOp) (R : BitVec 3)
  /-- `SUB R,r` (R132). -/
  | subRr (sz : Size) (R : BitVec 3) (r : RegOp)
  /-- `LD r,#3` (R100). -/
  | ldrN (sz : Size) (r : RegOp) (n : BitVec 3)
  /-- `SBC R,r` (R133). -/
  | sbcRr (sz : Size) (R : BitVec 3) (r : RegOp)
  /-- `EX R,r` (R110). -/
  | exRr (sz : Size) (R : BitVec 3) (r : RegOp)
  /-- `AND R,r` (R160). -/
  | andRr (sz : Size) (R : BitVec 3) (r : RegOp)
  /-- `ADD r,#` (R130). -/
  | addrI (sz : Size) (r : RegOp) (imm : BitVec sz.bits)
  /-- `ADC r,#` (R131). -/
  | adcrI (sz : Size) (r : RegOp) (imm : BitVec sz.bits)
  /-- `SUB r,#` (R132). -/
  | subrI (sz : Size) (r : RegOp) (imm : BitVec sz.bits)
  /-- `SBC r,#` (R133). -/
  | sbcrI (sz : Size) (r : RegOp) (imm : BitVec sz.bits)
  /-- `AND r,#` (R160). -/
  | andrI (sz : Size) (r : RegOp) (imm : BitVec sz.bits)
  /-- `XOR r,#` (R162). -/
  | xorrI (sz : Size) (r : RegOp) (imm : BitVec sz.bits)
  /-- `OR r,#` (R161). -/
  | orrI (sz : Size) (r : RegOp) (imm : BitVec sz.bits)
  /-- `CP r,#` (R134). -/
  | cprI (sz : Size) (r : RegOp) (imm : BitVec sz.bits)
  /-- `XOR R,r` (R162). -/
  | xorRr (sz : Size) (R : BitVec 3) (r : RegOp)
  /-- `CP r,#3` (R134). -/
  | cprN (sz : Size) (r : RegOp) (n : BitVec 3)
  /-- `OR R,r` (R161). -/
  | orRr (sz : Size) (R : BitVec 3) (r : RegOp)
  /-- `RLC #4,r` (R210). -/
  | rlcNr (sz : Size) (n : BitVec 4) (r : RegOp)
  /-- `RRC #4,r` (R211). -/
  | rrcNr (sz : Size) (n : BitVec 4) (r : RegOp)
  /-- `RL #4,r` (R212). -/
  | rlNr (sz : Size) (n : BitVec 4) (r : RegOp)
  /-- `RR #4,r` (R213). -/
  | rrNr (sz : Size) (n : BitVec 4) (r : RegOp)
  /-- `SLA #4,r` (R214). -/
  | slaNr (sz : Size) (n : BitVec 4) (r : RegOp)
  /-- `SRA #4,r` (R215). -/
  | sraNr (sz : Size) (n : BitVec 4) (r : RegOp)
  /-- `SLL #4,r` (R216). -/
  | sllNr (sz : Size) (n : BitVec 4) (r : RegOp)
  /-- `SRL #4,r` (R217). -/
  | srlNr (sz : Size) (n : BitVec 4) (r : RegOp)
  /-- `CP R,r` (R134). -/
  | cpRr (sz : Size) (R : BitVec 3) (r : RegOp)
  /-- `RLC A,r` (R210). -/
  | rlcAr (sz : Size) (r : RegOp)
  /-- `RRC A,r` (R211). -/
  | rrcAr (sz : Size) (r : RegOp)
  /-- `RL A,r` (R212). -/
  | rlAr (sz : Size) (r : RegOp)
  /-- `RR A,r` (R213). -/
  | rrAr (sz : Size) (r : RegOp)
  /-- `SLA A,r` (R214). -/
  | slaAr (sz : Size) (r : RegOp)
  /-- `SRA A,r` (R215). -/
  | sraAr (sz : Size) (r : RegOp)
  /-- `SLL A,r` (R216). -/
  | sllAr (sz : Size) (r : RegOp)
  /-- `SRL A,r` (R217). -/
  | srlAr (sz : Size) (r : RegOp)
  /-- `LDAR R,$+4+d16` (R104). -/
  | ldar (sz : Size) (R : BitVec 3) (d : BitVec 16)
  /-- `LD (mem),#8` (R100). -/
  | ldmI8 (m : MemOp) (v : BitVec 8)
  /-- `LDW (mem),#16` (R100). -/
  | ldwmI16 (m : MemOp) (v : BitVec 16)
  /-- `POP (mem)` (R102). -/
  | popm (m : MemOp)
  /-- `POPW (mem)` (R102). -/
  | popwm (m : MemOp)
  /-- `LD (mem),(#16)` (R100). -/
  | ldmA16 (m : MemOp) (a : BitVec 16)
  /-- `LDW (mem),(#16)` (R100). -/
  | ldwmA16 (m : MemOp) (a : BitVec 16)
  /-- `LDA R,mem (word R)` (R103). -/
  | ldaW (R : BitVec 3) (m : MemOp)
  /-- `ANDCF A,(mem)` (R172). -/
  | andcfAm (m : MemOp)
  /-- `ORCF A,(mem)` (R173). -/
  | orcfAm (m : MemOp)
  /-- `XORCF A,(mem)` (R174). -/
  | xorcfAm (m : MemOp)
  /-- `LDCF A,(mem)` (R170). -/
  | ldcfAm (m : MemOp)
  /-- `STCF A,(mem)` (R171). -/
  | stcfAm (m : MemOp)
  /-- `LDA R,mem (long-word R)` (R103). -/
  | ldaL (R : BitVec 3) (m : MemOp)
  /-- `LD (mem),R (byte)` (R100). -/
  | ldmRB (m : MemOp) (R : BitVec 3)
  /-- `LD (mem),R (word)` (R100). -/
  | ldmRW (m : MemOp) (R : BitVec 3)
  /-- `LD (mem),R (long word)` (R100). -/
  | ldmRL (m : MemOp) (R : BitVec 3)
  /-- `ANDCF #3,(mem)` (R172). -/
  | andcfNm (n : BitVec 3) (m : MemOp)
  /-- `ORCF #3,(mem)` (R173). -/
  | orcfNm (n : BitVec 3) (m : MemOp)
  /-- `XORCF #3,(mem)` (R174). -/
  | xorcfNm (n : BitVec 3) (m : MemOp)
  /-- `LDCF #3,(mem)` (R170). -/
  | ldcfNm (n : BitVec 3) (m : MemOp)
  /-- `STCF #3,(mem)` (R171). -/
  | stcfNm (n : BitVec 3) (m : MemOp)
  /-- `TSET #3,(mem)` (R183). -/
  | tsetNm (n : BitVec 3) (m : MemOp)
  /-- `RES #3,(mem)` (R180). -/
  | resNm (n : BitVec 3) (m : MemOp)
  /-- `SET #3,(mem)` (R181). -/
  | setNm (n : BitVec 3) (m : MemOp)
  /-- `CHG #3,(mem)` (R182). -/
  | chgNm (n : BitVec 3) (m : MemOp)
  /-- `BIT #3,(mem)` (R179). -/
  | bitNm (n : BitVec 3) (m : MemOp)
  /-- `JP cc,mem` (R230). -/
  | jpm (cc : Cond) (m : MemOp)
  /-- `CALL cc,mem` (R233). -/
  | callm (cc : Cond) (m : MemOp)
  /-- `RET cc` (R236). -/
  | retcc (cc : Cond)
  /-- `PUSH (mem) / PUSHW (mem)` (R101). -/
  | pushm (sz : Size) (m : MemOp)
  /-- `RLD [A,](mem)` (R218). -/
  | rld (m : MemOp)
  /-- `RRD [A,](mem)` (R219). -/
  | rrd (m : MemOp)
  /-- `LDI / LDIW` (R115). -/
  | ldi (sz : Size) (p : BlockPair)
  /-- `LDIR / LDIRW` (R116). -/
  | ldir (sz : Size) (p : BlockPair)
  /-- `LDD / LDDW` (R117). -/
  | ldd (sz : Size) (p : BlockPair)
  /-- `LDDR / LDDRW` (R118). -/
  | lddr (sz : Size) (p : BlockPair)
  /-- `CPI [A/WA,(R)]` (R119). -/
  | cpi (sz : Size) (R : BitVec 3)
  /-- `CPIR [A/WA,(R)]` (R120). -/
  | cpir (sz : Size) (R : BitVec 3)
  /-- `CPD [A/WA,(R)]` (R121). -/
  | cpd (sz : Size) (R : BitVec 3)
  /-- `CPDR [A/WA,(R)]` (R122). -/
  | cpdr (sz : Size) (R : BitVec 3)
  /-- `LD (#16),(mem) / LDW (#16),(mem)` (R100). -/
  | ldA16m (sz : Size) (a : BitVec 16) (m : MemOp)
  /-- `LD R,(mem)` (R100). -/
  | ldRm (sz : Size) (R : BitVec 3) (m : MemOp)
  /-- `EX (mem),R` (R110). -/
  | exmR (sz : Size) (m : MemOp) (R : BitVec 3)
  /-- `ADD (mem),#` (R130). -/
  | addmI (sz : Size) (m : MemOp) (imm : BitVec sz.bits)
  /-- `ADC (mem),#` (R131). -/
  | adcmI (sz : Size) (m : MemOp) (imm : BitVec sz.bits)
  /-- `SUB (mem),#` (R132). -/
  | submI (sz : Size) (m : MemOp) (imm : BitVec sz.bits)
  /-- `SBC (mem),#` (R133). -/
  | sbcmI (sz : Size) (m : MemOp) (imm : BitVec sz.bits)
  /-- `AND (mem),#` (R160). -/
  | andmI (sz : Size) (m : MemOp) (imm : BitVec sz.bits)
  /-- `XOR (mem),#` (R162). -/
  | xormI (sz : Size) (m : MemOp) (imm : BitVec sz.bits)
  /-- `OR (mem),#` (R161). -/
  | ormI (sz : Size) (m : MemOp) (imm : BitVec sz.bits)
  /-- `CP (mem),#` (R134). -/
  | cpmI (sz : Size) (m : MemOp) (imm : BitVec sz.bits)
  /-- `MUL RR,(mem)` (R142). -/
  | mulRm (sz : Size) (R : BitVec 3) (m : MemOp)
  /-- `MULS RR,(mem)` (R143). -/
  | mulsRm (sz : Size) (R : BitVec 3) (m : MemOp)
  /-- `DIV RR,(mem)` (R144). -/
  | divRm (sz : Size) (R : BitVec 3) (m : MemOp)
  /-- `DIVS RR,(mem)` (R145). -/
  | divsRm (sz : Size) (R : BitVec 3) (m : MemOp)
  /-- `INC #3,(mem) / INCW` (R135). -/
  | incNm (sz : Size) (n : BitVec 3) (m : MemOp)
  /-- `DEC #3,(mem) / DECW` (R136). -/
  | decNm (sz : Size) (n : BitVec 3) (m : MemOp)
  /-- `RLC (mem) / RLCW (mem)` (R210). -/
  | rlcm (sz : Size) (m : MemOp)
  /-- `RRC (mem) / RRCW (mem)` (R211). -/
  | rrcm (sz : Size) (m : MemOp)
  /-- `RL (mem) / RLW (mem)` (R212). -/
  | rlm (sz : Size) (m : MemOp)
  /-- `RR (mem) / RRW (mem)` (R213). -/
  | rrm (sz : Size) (m : MemOp)
  /-- `SLA (mem) / SLAW (mem)` (R214). -/
  | slam (sz : Size) (m : MemOp)
  /-- `SRA (mem) / SRAW (mem)` (R215). -/
  | sram (sz : Size) (m : MemOp)
  /-- `SLL (mem) / SLLW (mem)` (R216). -/
  | sllm (sz : Size) (m : MemOp)
  /-- `SRL (mem) / SRLW (mem)` (R217). -/
  | srlm (sz : Size) (m : MemOp)
  /-- `ADD R,(mem)` (R130). -/
  | addRm (sz : Size) (R : BitVec 3) (m : MemOp)
  /-- `ADD (mem),R` (R130). -/
  | addmR (sz : Size) (m : MemOp) (R : BitVec 3)
  /-- `ADC R,(mem)` (R131). -/
  | adcRm (sz : Size) (R : BitVec 3) (m : MemOp)
  /-- `ADC (mem),R` (R131). -/
  | adcmR (sz : Size) (m : MemOp) (R : BitVec 3)
  /-- `SUB R,(mem)` (R132). -/
  | subRm (sz : Size) (R : BitVec 3) (m : MemOp)
  /-- `SUB (mem),R` (R132). -/
  | submR (sz : Size) (m : MemOp) (R : BitVec 3)
  /-- `SBC R,(mem)` (R133). -/
  | sbcRm (sz : Size) (R : BitVec 3) (m : MemOp)
  /-- `SBC (mem),R` (R133). -/
  | sbcmR (sz : Size) (m : MemOp) (R : BitVec 3)
  /-- `AND R,(mem)` (R160). -/
  | andRm (sz : Size) (R : BitVec 3) (m : MemOp)
  /-- `AND (mem),R` (R160). -/
  | andmR (sz : Size) (m : MemOp) (R : BitVec 3)
  /-- `XOR R,(mem)` (R162). -/
  | xorRm (sz : Size) (R : BitVec 3) (m : MemOp)
  /-- `XOR (mem),R` (R162). -/
  | xormR (sz : Size) (m : MemOp) (R : BitVec 3)
  /-- `OR R,(mem)` (R161). -/
  | orRm (sz : Size) (R : BitVec 3) (m : MemOp)
  /-- `OR (mem),R` (R161). -/
  | ormR (sz : Size) (m : MemOp) (R : BitVec 3)
  /-- `CP R,(mem)` (R134). -/
  | cpRm (sz : Size) (R : BitVec 3) (m : MemOp)
  /-- `CP (mem),R` (R134). -/
  | cpmR (sz : Size) (m : MemOp) (R : BitVec 3)
  deriving DecidableEq, Repr

end Sys2Proof
end

