-- ==== Sys2Proof/Config.lean ====
section
/-!
DEFINITION. What the product fixes and what the spec leaves open: the product
parameters (00_scope.md R5) and the free values that stand for `ANY(n)` (00_scope.md R8).
-/

namespace Sys2Proof

/-! ## Registers behind a code -/

/-- The register that a register code stands for, before the bank is known: a register of
the current bank, of the previous bank, of the bank with the given number (10_state.md
R14), or a fixed register. -/
inductive RegBase where
  | cur (k : BankedReg)
  | prev (k : BankedReg)
  | abs (n : BitVec 3) (k : BankedReg)
  | fixed (j : FixedReg)
  deriving DecidableEq, Repr

/-- A register code's meaning: a register and the byte of it that the code names
(30_encoding.md R66). -/
structure RegDesig where
  base : RegBase
  off : BitVec 2
  deriving DecidableEq, Repr

/-- The control registers (10_state.md R29). -/
inductive CReg where
  | dmas (n : BitVec 2)
  | dmad (n : BitVec 2)
  | dmac (n : BitVec 2)
  | dmam (n : BitVec 2)
  | intnest
  deriving DecidableEq, Repr

/-! ## Product parameters (00_scope.md R5) -/

/-- What an address holds (20_memory.md R50). -/
inductive AreaKind where
  /-- Reads return the last value written. -/
  | ram
  /-- Writes have no effect. -/
  | rom
  /-- Built-in I/O: what a read gives is the device's. -/
  | io
  /-- No memory: the source says nothing of an access. -/
  | empty
  deriving DecidableEq, Repr

/-- The addresses from `first` to `last`, both included. -/
structure Region where
  first : BitVec 24
  last : BitVec 24
  kind : AreaKind
  deriving DecidableEq, Repr

/-- `MEMORY_MAP` (20_memory.md R50): the first region that contains an address says what it
holds, `other` says it of an address in none. -/
structure MemoryMap where
  regions : List Region
  other : AreaKind
  deriving DecidableEq, Repr

/-- `CR_MAP` (10_state.md R30): the control register of each code and the width of each
kind of control register. -/
structure CrMap where
  codes : List (BitVec 8 × CReg)
  dmas : Size
  dmad : Size
  dmac : Size
  dmam : Size
  intnest : Size
  deriving DecidableEq, Repr

/-- What LDA, JP and CALL do with (-r32) and (r32+), which are not described
(92_eei_decisions.md D21): they are refused, as D21 decides, or they run and a free bit says
whether the register steps. -/
inductive BareStep where
  | refused
  | free
  deriving DecidableEq, Repr

/-- The product parameters that a machine of this model carries. No step changes them. -/
structure Product where
  /-- `VECTOR_BASE` (60_exceptions.md R252). -/
  vectorBase : BitVec 24
  /-- `MIN_MODE_AVAILABLE` (00_scope.md R7). -/
  minModeAvailable : Bool
  /-- `MIN_MODE_REGMAP` (30_encoding.md R67): the codes that name a register in minimum mode,
  or `none`, for which the opaque `Config.minModeRegMap` stands. -/
  minModeRegMap : Option (List (BitVec 8 × RegDesig))
  /-- `CR_MAP` (10_state.md R30). -/
  crMap : CrMap
  /-- `MEMORY_MAP` (20_memory.md R50). -/
  memoryMap : MemoryMap
  /-- `LDX_AVAILABLE` (47_control.md R199). -/
  ldxAvailable : Bool
  /-- The model's own parameter, not one of R5 (notes/assumptions/26.md). -/
  bareStep : BareStep
  deriving DecidableEq, Repr

namespace Config

/-! ## Free values -/

/-- The free values: `ANY(n)` of 00_scope.md R8 is the low part of `freeValue` at the
number of the draw (`State.draws`). It has no body, so nothing can be proved of it.
DESIGN CHOICE (the form; notes/assumptions/4.md), safe. -/
opaque freeValue : Nat → BitVec 32

/-- The byte that a data read at an address of I/O or without memory gives, at the number of
the draw (20_memory.md R50). It has no body. DESIGN CHOICE (the form;
notes/assumptions/2.md), safe. -/
opaque openByte : Nat → Nat → Byte

/-- The byte that an instruction fetch from such an address gives, at the number of the
draw. It has no body. DESIGN CHOICE (the form; notes/assumptions/2.md), safe. -/
opaque openFetch : Nat → Nat → Byte

/-- The register an 8-bit code names in minimum mode, `none` where it names none, where the
product gives no `MIN_MODE_REGMAP`. The source's figure is lost (30_encoding.md R67), so it
has no body. DESIGN CHOICE (the form; notes/assumptions/8.md), safe. -/
opaque minModeRegMap : BitVec 8 → Option RegDesig

end Config

end Sys2Proof
end

