-- ==== Sys2Proof/Machine/Defaults.lean ====
section
/-!
DEFINITION. The product of the state after reset: the parameters of 00_scope.md R5 at the
values of the reference configuration (92_eei_decisions.md) where it chooses one.
-/

namespace Sys2Proof.Machine

/-- The default `CR_MAP` of 10_state.md R30. PRESUMED (general knowledge, G1 and G2;
notes/assumptions/5.md), unsafe. -/
def defaultCrMap : CrMap :=
  { codes :=
      [(0x00, .dmas 0), (0x04, .dmas 1), (0x08, .dmas 2), (0x0C, .dmas 3),
        (0x10, .dmad 0), (0x14, .dmad 1), (0x18, .dmad 2), (0x1C, .dmad 3),
        (0x20, .dmac 0), (0x24, .dmac 1), (0x28, .dmac 2), (0x2C, .dmac 3),
        (0x22, .dmam 0), (0x26, .dmam 1), (0x2A, .dmam 2), (0x2E, .dmam 3),
        (0x3C, .intnest)]
    dmas := .L
    dmad := .L
    dmac := .W
    dmam := .B
    intnest := .W }

/-- 16 Mbytes of read-write memory, the reference `MEMORY_MAP` (92_eei_decisions.md D6).
DESIGN CHOICE (notes/assumptions/2.md), unsafe. -/
def flatMemory : MemoryMap := { regions := [], other := .ram }

/-- The product of `State.reset`. DESIGN CHOICE (notes/assumptions/7.md), unsafe. -/
def resetProduct : Product :=
  { vectorBase := 0x008000
    minModeAvailable := true
    minModeRegMap := none
    crMap := defaultCrMap
    memoryMap := flatMemory
    ldxAvailable := true
    bareStep := .refused }

end Sys2Proof.Machine
end

