-- ==== Sys2Proof/WellFormed.lean ====
section
/-!
DEFINITION. When an instruction is one of the set: the checks of operand sizes,
register codes and bit numbers that the encoding tables cannot express in their bits.
`illFormed i` names the first check that fails; `WellFormed i` says that none does.
The decoder rejects what a check refuses.
-/

namespace Sys2Proof

/-- Why a byte sequence is no instruction. All are faults of the step
(30_encoding.md R84, 92_eei_decisions.md D9). -/
inductive Reject where
  /-- The bytes end inside the instruction; the fetch always supplies enough. -/
  | truncated
  /-- A blank first byte (30_encoding.md R84). -/
  | blankFirst
  /-- The dummy first byte 01H (30_encoding.md R85). -/
  | dummyFirst
  /-- A blank second byte (30_encoding.md R84). -/
  | blankSecond
  /-- A dummy second byte 1AH, 1BH, 3BH, 3FH after a REG prefix (30_encoding.md R85). -/
  | dummySecond
  /-- A listed operation after a prefix it is not listed for: a block instruction
  (43_block.md R115, R119) or `RET cc` (30_encoding.md R82). -/
  | prefixNotAllowed
  /-- A listed operation at a size its row does not list (30_encoding.md R83). -/
  | sizeNotListed
  /-- An 8-bit register code that is not a multiple of the access size
  (30_encoding.md R65, R73). -/
  | registerCodeNotMultiple
  /-- An undefined sub-byte of the C3H, D3H, E3H, F3H modes (30_encoding.md R72, R73). -/
  | subByteUndefined
  /-- Step code 11 of `(-r32)` or `(r32+)` (30_encoding.md R74). -/
  | stepUndefined
  /-- A second byte above 07H of EI or LDF (30_encoding.md R77). -/
  | numberAboveSeven
  /-- A byte multiply or divide whose code names no word register (44_arithmetic.md R142). -/
  | noDoubleDestination
  /-- BIT, RES, SET, CHG or TSET of bit 8 to 15 of a byte register (46_bit.md R187). -/
  | bitOutsideByte
  /-- `EI 7` is the instruction DI (47_control.md R193, the table's note). -/
  | eiSevenIsDi
  deriving DecidableEq, Repr

/-- The first failure of a list of checks. -/
def firstOf : List (Option Reject) → Option Reject
  | [] => none
  | some e :: _ => some e
  | none :: rest => firstOf rest

/-- The size is one the row lists (30_encoding.md R83). -/
def sizeIn (allowed : List Size) (sz : Size) : Option Reject :=
  if sz ∈ allowed then none else some .sizeNotListed

/-- An 8-bit register code is a multiple of the access size (30_encoding.md R65). -/
def codeOk (sz : Size) (code : BitVec 8) : Option Reject :=
  if code.toNat % sz.bytes = 0 then none else some .registerCodeNotMultiple

/-- The register operand of a REG prefix can be accessed at the size. -/
def regOk (sz : Size) : RegOp → Option Reject
  | .short _ => none
  | .ext code => codeOk sz code

/-- The 3-bit code of a double-width destination: at byte operation size only the odd
codes name a word register (44_arithmetic.md R142). -/
def doubleCodeOk (sz : Size) (R : BitVec 3) : Option Reject :=
  if sz = .B ∧ R.toNat % 2 = 0 then some .noDoubleDestination else none

/-- The destination `rr` of the `rr,#` forms (44_arithmetic.md R142). -/
def doubleOk (sz : Size) : RegOp → Option Reject
  | .short c => doubleCodeOk sz c
  | .ext code => codeOk sz.double code

/-- The register codes of a memory operand: `base` is a multiple of 4 and the index
register of `(r32 + r16)` a multiple of 2 (30_encoding.md R73). -/
def memOk : MemOp → Option Reject
  | .index8 base _ => codeOk .L base
  | .index16 base idx => firstOf [codeOk .L base, codeOk .W idx]
  | _ => none

/-- The bit number of BIT, RES, SET, CHG, TSET lies in the register (46_bit.md R187). -/
def bitOk (sz : Size) (n : BitVec 4) : Option Reject :=
  if n.toNat < sz.bits then none else some .bitOutsideByte

/-- `EI 7` has the code of DI, which is listed first (30_encoding.md R89). -/
def eiCheck (n : BitVec 3) : Option Reject :=
  if n = 7 then some .eiSevenIsDi else none

/-- The first check of the instruction's row that fails. -/
def illFormed : Instr → Option Reject
  | .nop => none
  | .pushSR => none
  | .popSR => none
  | .min => none
  | .halt => none
  | .di => none
  | .ei n => eiCheck n
  | .reti => none
  | .ldA8I8 _ _ => none
  | .pushI8 _ => none
  | .ldwA8I16 _ _ => none
  | .pushwI16 _ => none
  | .incf => none
  | .decf => none
  | .ret => none
  | .retd _ => none
  | .rcf => none
  | .scf => none
  | .ccf => none
  | .zcf => none
  | .pushA => none
  | .popA => none
  | .exFF => none
  | .ldf _ => none
  | .pushF => none
  | .popF => none
  | .jp16 _ => none
  | .jp24 _ => none
  | .call16 _ => none
  | .call24 _ => none
  | .calr _ => none
  | .ldRI8 _ _ => none
  | .pushRW _ => none
  | .ldRI16 _ _ => none
  | .pushRL _ => none
  | .ldRI32 _ _ => none
  | .popRW _ => none
  | .popRL _ => none
  | .jr _ _ => none
  | .jrl _ _ => none
  | .ldx _ _ => none
  | .swi _ => none
  | .ldrI sz r _ => regOk sz r
  | .pushr sz r => regOk sz r
  | .popr sz r => regOk sz r
  | .cplr sz r => firstOf [sizeIn [.B, .W] sz, regOk sz r]
  | .negr sz r => firstOf [sizeIn [.B, .W] sz, regOk sz r]
  | .mulrrI sz r _ => firstOf [sizeIn [.B, .W] sz, doubleOk sz r]
  | .mulsrrI sz r _ => firstOf [sizeIn [.B, .W] sz, doubleOk sz r]
  | .divrrI sz r _ => firstOf [sizeIn [.B, .W] sz, doubleOk sz r]
  | .divsrrI sz r _ => firstOf [sizeIn [.B, .W] sz, doubleOk sz r]
  | .link r _ => regOk .L r
  | .unlk r => regOk .L r
  | .bs1f r => regOk .W r
  | .bs1b r => regOk .W r
  | .daa r => regOk .B r
  | .extz sz r => firstOf [sizeIn [.W, .L] sz, regOk sz r]
  | .exts sz r => firstOf [sizeIn [.W, .L] sz, regOk sz r]
  | .paa sz r => firstOf [sizeIn [.W, .L] sz, regOk sz r]
  | .mirr r => regOk .W r
  | .mula r => regOk .L r
  | .djnz sz r _ => firstOf [sizeIn [.B, .W] sz, regOk sz r]
  | .andcfNr sz _ r => firstOf [sizeIn [.B, .W] sz, regOk sz r]
  | .orcfNr sz _ r => firstOf [sizeIn [.B, .W] sz, regOk sz r]
  | .xorcfNr sz _ r => firstOf [sizeIn [.B, .W] sz, regOk sz r]
  | .ldcfNr sz _ r => firstOf [sizeIn [.B, .W] sz, regOk sz r]
  | .stcfNr sz _ r => firstOf [sizeIn [.B, .W] sz, regOk sz r]
  | .andcfAr sz r => firstOf [sizeIn [.B, .W] sz, regOk sz r]
  | .orcfAr sz r => firstOf [sizeIn [.B, .W] sz, regOk sz r]
  | .xorcfAr sz r => firstOf [sizeIn [.B, .W] sz, regOk sz r]
  | .ldcfAr sz r => firstOf [sizeIn [.B, .W] sz, regOk sz r]
  | .stcfAr sz r => firstOf [sizeIn [.B, .W] sz, regOk sz r]
  | .ldcCr sz _ r => regOk sz r
  | .ldcR sz r _ => regOk sz r
  | .resNr sz n r => firstOf [sizeIn [.B, .W] sz, regOk sz r, bitOk sz n]
  | .setNr sz n r => firstOf [sizeIn [.B, .W] sz, regOk sz r, bitOk sz n]
  | .chgNr sz n r => firstOf [sizeIn [.B, .W] sz, regOk sz r, bitOk sz n]
  | .bitNr sz n r => firstOf [sizeIn [.B, .W] sz, regOk sz r, bitOk sz n]
  | .tsetNr sz n r => firstOf [sizeIn [.B, .W] sz, regOk sz r, bitOk sz n]
  | .minc1 _ r => regOk .W r
  | .minc2 _ r => regOk .W r
  | .minc4 _ r => regOk .W r
  | .mdec1 _ r => regOk .W r
  | .mdec2 _ r => regOk .W r
  | .mdec4 _ r => regOk .W r
  | .mulRr sz R r => firstOf [sizeIn [.B, .W] sz, regOk sz r, doubleCodeOk sz R]
  | .mulsRr sz R r => firstOf [sizeIn [.B, .W] sz, regOk sz r, doubleCodeOk sz R]
  | .divRr sz R r => firstOf [sizeIn [.B, .W] sz, regOk sz r, doubleCodeOk sz R]
  | .divsRr sz R r => firstOf [sizeIn [.B, .W] sz, regOk sz r, doubleCodeOk sz R]
  | .incNr sz _ r => regOk sz r
  | .decNr sz _ r => regOk sz r
  | .scc sz _ r => firstOf [sizeIn [.B, .W] sz, regOk sz r]
  | .addRr sz _ r => regOk sz r
  | .ldRr sz _ r => regOk sz r
  | .adcRr sz _ r => regOk sz r
  | .ldrR sz r _ => regOk sz r
  | .subRr sz _ r => regOk sz r
  | .ldrN sz r _ => regOk sz r
  | .sbcRr sz _ r => regOk sz r
  | .exRr sz _ r => firstOf [sizeIn [.B, .W] sz, regOk sz r]
  | .andRr sz _ r => regOk sz r
  | .addrI sz r _ => regOk sz r
  | .adcrI sz r _ => regOk sz r
  | .subrI sz r _ => regOk sz r
  | .sbcrI sz r _ => regOk sz r
  | .andrI sz r _ => regOk sz r
  | .xorrI sz r _ => regOk sz r
  | .orrI sz r _ => regOk sz r
  | .cprI sz r _ => regOk sz r
  | .xorRr sz _ r => regOk sz r
  | .cprN sz r _ => firstOf [sizeIn [.B, .W] sz, regOk sz r]
  | .orRr sz _ r => regOk sz r
  | .rlcNr sz _ r => regOk sz r
  | .rrcNr sz _ r => regOk sz r
  | .rlNr sz _ r => regOk sz r
  | .rrNr sz _ r => regOk sz r
  | .slaNr sz _ r => regOk sz r
  | .sraNr sz _ r => regOk sz r
  | .sllNr sz _ r => regOk sz r
  | .srlNr sz _ r => regOk sz r
  | .cpRr sz _ r => regOk sz r
  | .rlcAr sz r => regOk sz r
  | .rrcAr sz r => regOk sz r
  | .rlAr sz r => regOk sz r
  | .rrAr sz r => regOk sz r
  | .slaAr sz r => regOk sz r
  | .sraAr sz r => regOk sz r
  | .sllAr sz r => regOk sz r
  | .srlAr sz r => regOk sz r
  | .ldar sz _ _ => sizeIn [.W, .L] sz
  | .ldmI8 m _ => memOk m
  | .ldwmI16 m _ => memOk m
  | .popm m => memOk m
  | .popwm m => memOk m
  | .ldmA16 m _ => memOk m
  | .ldwmA16 m _ => memOk m
  | .ldaW _ m => memOk m
  | .andcfAm m => memOk m
  | .orcfAm m => memOk m
  | .xorcfAm m => memOk m
  | .ldcfAm m => memOk m
  | .stcfAm m => memOk m
  | .ldaL _ m => memOk m
  | .ldmRB m _ => memOk m
  | .ldmRW m _ => memOk m
  | .ldmRL m _ => memOk m
  | .andcfNm _ m => memOk m
  | .orcfNm _ m => memOk m
  | .xorcfNm _ m => memOk m
  | .ldcfNm _ m => memOk m
  | .stcfNm _ m => memOk m
  | .tsetNm _ m => memOk m
  | .resNm _ m => memOk m
  | .setNm _ m => memOk m
  | .chgNm _ m => memOk m
  | .bitNm _ m => memOk m
  | .jpm _ m => memOk m
  | .callm _ m => memOk m
  | .retcc _ => none
  | .pushm sz m => firstOf [sizeIn [.B, .W] sz, memOk m]
  | .rld m => memOk m
  | .rrd m => memOk m
  | .ldi sz _ => sizeIn [.B, .W] sz
  | .ldir sz _ => sizeIn [.B, .W] sz
  | .ldd sz _ => sizeIn [.B, .W] sz
  | .lddr sz _ => sizeIn [.B, .W] sz
  | .cpi sz _ => sizeIn [.B, .W] sz
  | .cpir sz _ => sizeIn [.B, .W] sz
  | .cpd sz _ => sizeIn [.B, .W] sz
  | .cpdr sz _ => sizeIn [.B, .W] sz
  | .ldA16m sz _ m => firstOf [sizeIn [.B, .W] sz, memOk m]
  | .ldRm _ _ m => memOk m
  | .exmR sz m _ => firstOf [sizeIn [.B, .W] sz, memOk m]
  | .addmI sz m _ => firstOf [sizeIn [.B, .W] sz, memOk m]
  | .adcmI sz m _ => firstOf [sizeIn [.B, .W] sz, memOk m]
  | .submI sz m _ => firstOf [sizeIn [.B, .W] sz, memOk m]
  | .sbcmI sz m _ => firstOf [sizeIn [.B, .W] sz, memOk m]
  | .andmI sz m _ => firstOf [sizeIn [.B, .W] sz, memOk m]
  | .xormI sz m _ => firstOf [sizeIn [.B, .W] sz, memOk m]
  | .ormI sz m _ => firstOf [sizeIn [.B, .W] sz, memOk m]
  | .cpmI sz m _ => firstOf [sizeIn [.B, .W] sz, memOk m]
  | .mulRm sz R m => firstOf [sizeIn [.B, .W] sz, memOk m, doubleCodeOk sz R]
  | .mulsRm sz R m => firstOf [sizeIn [.B, .W] sz, memOk m, doubleCodeOk sz R]
  | .divRm sz R m => firstOf [sizeIn [.B, .W] sz, memOk m, doubleCodeOk sz R]
  | .divsRm sz R m => firstOf [sizeIn [.B, .W] sz, memOk m, doubleCodeOk sz R]
  | .incNm sz _ m => firstOf [sizeIn [.B, .W] sz, memOk m]
  | .decNm sz _ m => firstOf [sizeIn [.B, .W] sz, memOk m]
  | .rlcm sz m => firstOf [sizeIn [.B, .W] sz, memOk m]
  | .rrcm sz m => firstOf [sizeIn [.B, .W] sz, memOk m]
  | .rlm sz m => firstOf [sizeIn [.B, .W] sz, memOk m]
  | .rrm sz m => firstOf [sizeIn [.B, .W] sz, memOk m]
  | .slam sz m => firstOf [sizeIn [.B, .W] sz, memOk m]
  | .sram sz m => firstOf [sizeIn [.B, .W] sz, memOk m]
  | .sllm sz m => firstOf [sizeIn [.B, .W] sz, memOk m]
  | .srlm sz m => firstOf [sizeIn [.B, .W] sz, memOk m]
  | .addRm _ _ m => memOk m
  | .addmR _ m _ => memOk m
  | .adcRm _ _ m => memOk m
  | .adcmR _ m _ => memOk m
  | .subRm _ _ m => memOk m
  | .submR _ m _ => memOk m
  | .sbcRm _ _ m => memOk m
  | .sbcmR _ m _ => memOk m
  | .andRm _ _ m => memOk m
  | .andmR _ m _ => memOk m
  | .xorRm _ _ m => memOk m
  | .xormR _ m _ => memOk m
  | .orRm _ _ m => memOk m
  | .ormR _ m _ => memOk m
  | .cpRm _ _ m => memOk m
  | .cpmR _ m _ => memOk m

/-- The instruction is one of the set: no check refuses it. -/
def WellFormed (i : Instr) : Bool := (illFormed i).isNone

end Sys2Proof
end

