-- ==== Sys2Proof/Machine/State.lean ====
section
/-!
DEFINITION. The state of the core as plain data (10_state.md R10 to R38), the reasons a
step can stop, and the state right after reset.
-/

namespace Sys2Proof.Machine

/-- The six flags of F (10_state.md R25, R26). Bits 5 and 3 of F are the constants 0 and
have no storage. -/
structure Flags where
  s : Bool
  z : Bool
  h : Bool
  v : Bool
  n : Bool
  c : Bool
  deriving DecidableEq, Repr

/-- The four registers of one bank: 32 bits each in maximum mode (10_state.md R10), 16 in
minimum mode (R11). -/
structure Bank (w : Nat) where
  xwa : BitVec w
  xbc : BitVec w
  xde : BitVec w
  xhl : BitVec w
  deriving DecidableEq, Repr

/-- Four like things: the banks of maximum mode (10_state.md R10), the four registers of
each kind of the micro DMA (R29). -/
structure Four (α : Type) where
  at0 : α
  at1 : α
  at2 : α
  at3 : α
  deriving DecidableEq, Repr

/-- Memory: the bytes that differ from what an unlisted address reads as, addresses
strictly rising (`Memory.wf` of Ops.lean). -/
abbrev Memory := List Host.Cell

/-- The transfer of one micro DMA request, a row of the table of 60_exceptions.md R268. -/
inductive DmaMode where
  | ioToMemInc
  | ioToMemDec
  | memToIoInc
  | memToIoDec
  | ioToIo
  | dramRefresh
  | counter
  deriving DecidableEq, Repr

/-- What the core can be in the middle of when reset arrives: an instruction, the entry of
an interrupt request (60_exceptions.md R257), a micro DMA transfer (R268). -/
inductive Activity where
  | instruction
  | entry (level : BitVec 3) (vector : BitVec 24)
  | transfer (channel : BitVec 2) (mode : DmaMode) (sz : Size)
  deriving DecidableEq, Repr

/-- What the environment offers at one boundary: nothing, an interrupt request
(60_exceptions.md R255), a micro DMA request (R268), reset (70_reset_and_hazards.md R280),
or reset in the middle of what the core does next, of whose byte stores the first `done` are
done by then. -/
inductive Offer where
  | idle
  | request (level : BitVec 3) (vector : BitVec 24)
  | microDma (channel : BitVec 2) (mode : DmaMode) (sz : Size)
  | reset
  | resetDuring (during : Activity) (done : Nat)
  deriving DecidableEq, Repr

/-- A block instruction that repeats (43_block.md R116, R118, R120, R122), between two of
its elements. -/
inductive Repeating where
  | ldir (sz : Size) (p : BlockPair)
  | lddr (sz : Size) (p : BlockPair)
  | cpir (sz : Size) (R : BitVec 3)
  | cpdr (sz : Size) (R : BitVec 3)
  deriving DecidableEq, Repr

/-- The machine. -/
structure State where
  /-- XWA, XBC, XDE, XHL of banks 0 to 3 (R10). Their low halves are WA, BC, DE, HL of
  banks 0 to 3 of minimum mode. DESIGN CHOICE (the overlay, log 9), unsafe. -/
  banks : Four (Bank 32)
  /-- WA, BC, DE, HL of banks 4 to 7 of minimum mode (R11). -/
  minBanks : Four (Bank 16)
  xix : BitVec 32
  xiy : BitVec 32
  xiz : BitVec 32
  /-- The stack pointer (R16). -/
  xsp : BitVec 32
  /-- The program counter; bits 31:16 are held at 0 in minimum mode (R27). -/
  pc : BitVec 32
  /-- F, the low byte of SR (R25). -/
  f : Flags
  /-- The second flag register F' (R25). -/
  fAlt : Flags
  /-- SR.IFF, the interrupt mask (R22). -/
  iff : BitVec 3
  /-- SR.MAX: maximum mode (R23). -/
  max : Bool
  /-- SR.RFP, the number of the current bank (R24). -/
  rfp : BitVec 3
  /-- DMAS0 to DMAS3 (R29). The width of this and the other control registers is that of
  `CR_MAP` (R30), and the bits above it are 0. -/
  dmas : Four (BitVec 32)
  /-- DMAD0 to DMAD3 (R29). -/
  dmad : Four (BitVec 32)
  /-- DMAC0 to DMAC3 (R29). -/
  dmac : Four (BitVec 32)
  /-- DMAM0 to DMAM3 (R29). -/
  dmam : Four (BitVec 32)
  /-- The interrupt nesting counter (R31). -/
  intnest : BitVec 32
  /-- Set by HALT, cleared by an accepted request and by reset (R38). -/
  halted : Bool
  /-- The block instruction that is to do its next element, its codes fetched already
  (43_block.md R116; log 15). -/
  repeating : Option Repeating
  mem : Memory
  /-- What the environment offers at the coming boundaries; nothing once it is empty
  (60_exceptions.md R255). DESIGN CHOICE (the form, log 11), safe. -/
  offers : List Offer
  /-- The model's own counter of free values drawn (log 4). -/
  draws : Nat
  /-- The model's own list of the byte stores of what the core did last, in the order in which
  it did them (20_memory.md R55; log 13). -/
  stores : List (Word32 × Byte)
  /-- The product parameters (00_scope.md R5). -/
  product : Product
  deriving DecidableEq, Repr

/-- Why a run stops in a faulted state. -/
inductive Fault where
  /-- The bytes at the program counter are no instruction of the set. Raised by `step`
  when the decoder rejects them (30_encoding.md R83, R84, R85;
  93_implementation_defined.md U1, U2, U7, U11, U13 to U16). Safe. -/
  | undefinedCode (why : Reject)
  /-- An 8-bit register code that names no register. Raised by the operand forms
  (30_encoding.md R66; 93_implementation_defined.md U12). Safe. -/
  | undefinedRegisterCode
  /-- A 32-bit banked register, or a part of one above bit 15, named in minimum mode.
  Raised by the operand forms and by MULA (10_state.md R11; 93_implementation_defined.md
  U21). Safe. -/
  | bankedLongInMinimumMode
  deriving DecidableEq, Repr

/-- Why the model declines to run an instruction. -/
inductive Refusal where
  /-- An instruction without a meaning in this model. Raised by no arm of `exec`. Safe. -/
  | notModelled (mnemonic : String)
  /-- Minimum mode is entered on a product that "can't set the minimum mode". Raised by
  MIN, POP SR and RETI (00_scope.md R7; 93_implementation_defined.md U20). Safe. -/
  | minimumModeNotAvailable
  /-- LDC with a code outside `CR_MAP` or a size unlike the register's width
  (47_control.md R198; 93_implementation_defined.md U18). Safe. -/
  | controlRegisterNotDescribed
  /-- LDX on a product without it (47_control.md R199; 93_implementation_defined.md U23).
  Safe. -/
  | ldxNotAvailable
  /-- LDA, JP or CALL with (-r32) or (r32+) (41_load.md R103, 49_jump.md R230, R233;
  92_eei_decisions.md D21). Safe. -/
  | stepWithoutAccess
  deriving DecidableEq, Repr

/-- The flags all clear. -/
def Flags.zero : Flags := { s := false, z := false, h := false, v := false, n := false, c := false }

/-- A bank of zeros. -/
def Bank.zero (w : Nat) : Bank w := { xwa := 0, xbc := 0, xde := 0, xhl := 0 }

/-- Four copies of one value. -/
def Four.all {α : Type} (x : α) : Four α := { at0 := x, at1 := x, at2 := x, at3 := x }

/-- The state right after reset (10_state.md R36, 70_reset_and_hazards.md R281): SR.IFF 7,
SR.MAX 1, SR.RFP 0, XSP 100H, not halted, and the pc from the three bytes at VECTOR_BASE,
which nothing has written and which read 00H. Every register the spec gives no value is 0.
DESIGN CHOICE (those zeros, log 3; the bytes read, log 1; the product, log 7; the draw
counter, log 4; no stores, log 13), unsafe. -/
def State.reset : State :=
  { banks := Four.all (Bank.zero 32)
    minBanks := Four.all (Bank.zero 16)
    xix := 0
    xiy := 0
    xiz := 0
    xsp := 0x100
    pc := 0
    f := Flags.zero
    fAlt := Flags.zero
    iff := 7
    max := true
    rfp := 0
    dmas := Four.all 0
    dmad := Four.all 0
    dmac := Four.all 0
    dmam := Four.all 0
    intnest := 0
    halted := false
    repeating := none
    mem := []
    offers := []
    draws := 0
    stores := []
    product := resetProduct }

end Sys2Proof.Machine
end

