-- ==== Sys2Proof/Machine/Ops.lean ====
section
/-!
DEFINITION. The named operations over registers, memory, the status register, the program
counter and the stack, the free values, and taking an exception with its return.
-/

namespace Sys2Proof.Machine

/-! ## Outcomes in sequence -/

/-- What an operation answers: a value, a fault or a refusal. -/
abbrev Out (α : Type) := Host.Outcome α Fault Refusal

/-- Go on with the value; a fault or a refusal ends the instruction. -/
def andThen {α β : Type} (x : Out α) (k : α → Out β) : Out β :=
  match x with
  | .next a => k a
  | .fault e => .fault e
  | .refused e => .refused e

/-! ## Banks and register files of four -/

def Four.get {α : Type} (v : Four α) (i : BitVec 2) : α :=
  match i.toNat with
  | 0 => v.at0
  | 1 => v.at1
  | 2 => v.at2
  | _ => v.at3

def Four.set {α : Type} (v : Four α) (i : BitVec 2) (x : α) : Four α :=
  match i.toNat with
  | 0 => { v with at0 := x }
  | 1 => { v with at1 := x }
  | 2 => { v with at2 := x }
  | _ => { v with at3 := x }

/-- Element by element. -/
def Four.zip {α β γ : Type} (g : α → β → γ) (a : Four α) (b : Four β) : Four γ :=
  { at0 := g a.at0 b.at0, at1 := g a.at1 b.at1, at2 := g a.at2 b.at2, at3 := g a.at3 b.at3 }

def Bank.get {w : Nat} (b : Bank w) : BankedReg → BitVec w
  | .xwa => b.xwa
  | .xbc => b.xbc
  | .xde => b.xde
  | .xhl => b.xhl

def Bank.set {w : Nat} (b : Bank w) (k : BankedReg) (x : BitVec w) : Bank w :=
  match k with
  | .xwa => { b with xwa := x }
  | .xbc => { b with xbc := x }
  | .xde => { b with xde := x }
  | .xhl => { b with xhl := x }

/-- Register by register. -/
def Bank.zip {u v w : Nat} (g : BitVec u → BitVec v → BitVec w) (a : Bank u) (b : Bank v) :
    Bank w :=
  { xwa := g a.xwa b.xwa, xbc := g a.xbc b.xbc, xde := g a.xde b.xde, xhl := g a.xhl b.xhl }

/-! ## General registers and their parts (10_state.md R10 to R13) -/

/-- A register by its place: a bank number, or a fixed register. Banks 4 to 7 exist in
minimum mode only and hold 16 bits. -/
inductive PReg where
  | bank (n : BitVec 3) (k : BankedReg)
  | fixed (j : FixedReg)
  deriving DecidableEq, Repr

/-- A part of a register: it starts at byte `off` (10_state.md R12). -/
structure Slot where
  reg : PReg
  off : BitVec 2
  deriving DecidableEq, Repr

/-- The bits of a register; a register of banks 4 to 7 reads 0 above bit 15. -/
def State.reg (s : State) : PReg → Word32
  | .bank n k =>
    if n.toNat < 4 then (s.banks.get (n.setWidth 2)).get k
    else ((s.minBanks.get (n.setWidth 2)).get k).setWidth 32
  | .fixed .xix => s.xix
  | .fixed .xiy => s.xiy
  | .fixed .xiz => s.xiz
  | .fixed .xsp => s.xsp

def State.setReg (s : State) (p : PReg) (v : Word32) : State :=
  match p with
  | .bank n k =>
    let i : BitVec 2 := n.setWidth 2
    if n.toNat < 4 then { s with banks := s.banks.set i ((s.banks.get i).set k v) }
    else { s with minBanks := s.minBanks.set i ((s.minBanks.get i).set k (v.setWidth 16)) }
  | .fixed .xix => { s with xix := v }
  | .fixed .xiy => { s with xiy := v }
  | .fixed .xiz => { s with xiz := v }
  | .fixed .xsp => { s with xsp := v }

/-- `old` with the `w` bits from bit `lsb` up replaced by `v`. -/
def insertBits {w : Nat} (old : Word32) (lsb : Nat) (v : BitVec w) : Word32 :=
  (old &&& ~~~((BitVec.allOnes w).setWidth 32 <<< lsb)) ||| (v.setWidth 32 <<< lsb)

/-- The first bit of a part. -/
def Slot.lsb (sl : Slot) : Nat := 8 * sl.off.toNat

/-- A read of a part returns exactly its bits (10_state.md R13). -/
def State.slot (s : State) (sz : Size) (sl : Slot) : BitVec sz.bits :=
  (s.reg sl.reg).extractLsb' sl.lsb sz.bits

/-- A write to a part changes exactly its bits (10_state.md R13). -/
def State.setSlot (s : State) (sz : Size) (sl : Slot) (v : BitVec sz.bits) : State :=
  s.setReg sl.reg (insertBits (s.reg sl.reg) sl.lsb v)

/-- RFP2 is fixed to 0 in maximum mode (10_state.md R24). -/
def rfpIn (max : Bool) (v : BitVec 3) : BitVec 3 := if max then v &&& 3 else v

/-- The number of the current bank (10_state.md R14). -/
def State.curBank (s : State) : BitVec 3 := rfpIn s.max s.rfp

/-- The number of the previous bank: RFP - 1 within the mode's banks (10_state.md R14).
DESIGN CHOICE (the wrap, notes/assumptions/23.md), unsafe. -/
def State.prevBank (s : State) : BitVec 3 := rfpIn s.max (s.rfp - 1)

/-- A register of the current bank, from its bit 0 up. -/
def State.curSlot (s : State) (k : BankedReg) : Slot := { reg := .bank s.curBank k, off := 0 }

/-- `A` of the current bank (10_state.md R19). -/
def State.regA (s : State) : BitVec 8 := s.slot .B (s.curSlot .xwa)

def State.setRegA (s : State) (v : BitVec 8) : State := s.setSlot .B (s.curSlot .xwa) v

/-- `BC` of the current bank (10_state.md R19). -/
def State.regBC (s : State) : BitVec 16 := s.slot .W (s.curSlot .xbc)

def State.setRegBC (s : State) (v : BitVec 16) : State := s.setSlot .W (s.curSlot .xbc) v

/-! ## Free values (00_scope.md R8, `ANY(n)`) -/

/-- The `i`-th free value of the coming draws, in `w` bits. -/
def State.free (s : State) (w i : Nat) : BitVec w := (Config.freeValue (s.draws + i)).setWidth w

/-- One free bit. -/
def State.freeBit (s : State) (i : Nat) : Bool := (Config.freeValue (s.draws + i)).getLsbD 0

/-- `n` free values have been used. -/
def State.drawn (s : State) (n : Nat) : State := { s with draws := s.draws + n }

/-- The state in which an instruction, an entry, a micro DMA transfer or a reset sequence
begins: one draw is counted, so that the open addresses it reads are open anew
(notes/assumptions/2.md), and it has stored nothing yet. -/
def State.begun (s : State) : State := { s with draws := s.draws + 1, stores := [] }

/-! ## Memory (20_memory.md R40 to R43) -/

/-- What an address that nothing has written reads as. DESIGN CHOICE
(notes/assumptions/1.md), unsafe. -/
def Memory.unlisted : Byte := 0

def Memory.read : Memory → Nat → Byte
  | [], _ => Memory.unlisted
  | (b, w) :: t, a => if a = b then w else Memory.read t a

/-- A write keeps the canonical form: writing what an unlisted address reads as removes the
entry. -/
def Memory.write : Memory → Nat → Byte → Memory
  | [], a, v => if v = Memory.unlisted then [] else [(a, v)]
  | (b, w) :: t, a, v =>
    if a < b then
      if v = Memory.unlisted then (b, w) :: t else (a, v) :: (b, w) :: t
    else if a = b then
      if v = Memory.unlisted then t else (a, v) :: t
    else (b, w) :: Memory.write t a v

/-- The canonical form: addresses below 2^24 and strictly rising, no entry equal to what
an unlisted address reads as. -/
def Memory.wf : Memory → Bool
  | [] => true
  | (a, v) :: t =>
    decide (a < 2 ^ 24) && decide (v ≠ Memory.unlisted) && t.all (fun c => decide (a < c.1)) &&
      Memory.wf t

/-- Bits 23:0 of a 32-bit value are the address (20_memory.md R41). -/
def cellOf (a : Word32) : Nat := (a.setWidth 24).toNat

/-- The kind of the first region that contains the address. -/
def kindAmong : List Region → AreaKind → Nat → AreaKind
  | [], other, _ => other
  | r :: rest, other, a =>
    if r.first.toNat ≤ a ∧ a ≤ r.last.toNat then r.kind else kindAmong rest other a

/-- What the product's `MEMORY_MAP` has at an address (20_memory.md R50). -/
def State.area (s : State) (a : Word32) : AreaKind :=
  kindAmong s.product.memoryMap.regions s.product.memoryMap.other (cellOf a)

/-- The address is of RAM or ROM. -/
def State.isMemory (s : State) (a : Word32) : Bool :=
  match s.area a with
  | .ram | .rom => true
  | .io | .empty => false

/-- The byte that memory holds at an address. -/
def State.cell (s : State) (a : Word32) : Byte := s.mem.read (cellOf a)

/-- The byte that a read gives. At an address of I/O or without memory it is a free value,
and the core does not fault (20_memory.md R50). DESIGN CHOICE (notes/assumptions/2.md),
safe. -/
def State.byte (s : State) (a : Word32) : Byte :=
  if s.isMemory a then s.cell a else Config.openByte s.draws (cellOf a)

/-- A write of one byte, which only RAM takes (20_memory.md R50). -/
def State.setByte (s : State) (a : Word32) (v : Byte) : State :=
  { s with
    mem := if s.area a = .ram then s.mem.write (cellOf a) v else s.mem
    stores := s.stores ++ [(a, v)] }

/-- Writes of one byte each, the first of the list first. -/
def State.replay (s : State) (l : List (Word32 × Byte)) : State :=
  l.foldl (fun t c => t.setByte c.1 c.2) s

/-- `MemRead(addr, bytes(sz))`, the lowest address least significant (20_memory.md R42). -/
def State.memRead (s : State) : (sz : Size) → Word32 → BitVec sz.bits
  | .B, a => s.byte a
  | .W, a => s.byte (a + 1) ++ s.byte a
  | .L, a => s.byte (a + 3) ++ s.byte (a + 2) ++ s.byte (a + 1) ++ s.byte a

/-- `MemWrite(addr, bytes(sz), v)` (20_memory.md R43), low address first (R55). -/
def State.memWrite (s : State) : (sz : Size) → Word32 → BitVec sz.bits → State
  | .B, a, v => s.setByte a v
  | .W, a, v => (s.setByte a (v.extractLsb' 0 8)).setByte (a + 1) (v.extractLsb' 8 8)
  | .L, a, v =>
    (((s.setByte a (v.extractLsb' 0 8)).setByte (a + 1) (v.extractLsb' 8 8)).setByte (a + 2)
      (v.extractLsb' 16 8)).setByte (a + 3) (v.extractLsb' 24 8)

/-- The number of bytes of an operand as an address step. -/
def byteCount (sz : Size) : Word32 := BitVec.ofNat 32 sz.bytes

/-! ## Program counter (10_state.md R27, R28) -/

/-- A pc value: 32 bits in maximum mode, 16 in minimum mode. -/
def State.pcOf (s : State) (t : Word32) : Word32 :=
  if s.max then t else (t.setWidth 16).setWidth 32

/-- `pc <- t`. -/
def State.jump (s : State) (t : Word32) : State := { s with pc := s.pcOf t }

/-- The size of a stacked pc: 4 bytes in maximum mode, 2 in minimum mode (20_memory.md
R47). -/
def State.pcSize (s : State) : Size := if s.max then .L else .W

/-! ## Stack (20_memory.md R44) -/

/-- `Push(n, v)`. -/
def State.push (s : State) (sz : Size) (v : BitVec sz.bits) : State :=
  { s with xsp := s.xsp - byteCount sz }.memWrite sz (s.xsp - byteCount sz) v

/-- The value `Pop(n)` answers. -/
def State.top (s : State) (sz : Size) : BitVec sz.bits := s.memRead sz s.xsp

/-- The state `Pop(n)` leaves. -/
def State.popped (s : State) (sz : Size) : State := { s with xsp := s.xsp + byteCount sz }

def State.pushPc (s : State) : State := s.push s.pcSize (s.pc.setWidth _)

/-- The pc popped at the mode's width. -/
def State.popPc (s : State) : State :=
  (s.popped s.pcSize).jump ((s.top s.pcSize).setWidth 32)

/-! ## Status register (10_state.md R20 to R26) -/

/-- F as a byte: S Z 0 H 0 V N C (R25). -/
def Flags.byte (f : Flags) : Byte :=
  BitVec.ofBool f.s ++ BitVec.ofBool f.z ++ 0#1 ++ BitVec.ofBool f.h ++ 0#1 ++
    BitVec.ofBool f.v ++ BitVec.ofBool f.n ++ BitVec.ofBool f.c

/-- Bits 5 and 3 are dropped. DESIGN CHOICE (notes/assumptions/22.md), unsafe. -/
def Flags.ofByte (b : Byte) : Flags :=
  { s := b.getLsbD 7, z := b.getLsbD 6, h := b.getLsbD 4, v := b.getLsbD 2, n := b.getLsbD 1,
    c := b.getLsbD 0 }

/-- The whole of SR (R20); SYSM reads 1 (R21). -/
def State.sr (s : State) : BitVec 16 :=
  1#1 ++ s.iff ++ BitVec.ofBool s.max ++ s.rfp ++ s.f.byte

/-- `SR.RFP <- v`; RFP2 is fixed to 0 in maximum mode (R24). -/
def State.setRfp (s : State) (v : BitVec 3) : State := { s with rfp := rfpIn s.max v }

/-- A bank of free values, from the `i`-th draw on. -/
def State.freeBank (s : State) (w i : Nat) : Bank w :=
  { xwa := s.free w i, xbc := s.free w (i + 1), xde := s.free w (i + 2), xhl := s.free w (i + 3) }

/-- Four banks of free values, from the `i`-th draw on. -/
def State.freeBanks (s : State) (w i : Nat) : Four (Bank w) :=
  { at0 := s.freeBank w i, at1 := s.freeBank w (i + 4), at2 := s.freeBank w (i + 8),
    at3 := s.freeBank w (i + 12) }

/-- The registers across a change of SR.MAX (R17, 92_eei_decisions.md D27,
93_implementation_defined.md U10): to maximum mode, bits 31:16 of every banked register
become free; to minimum mode, every 16-bit register of the eight banks becomes free. PC
bits 31:16 become 0 either way. -/
def State.changeMode (s : State) (max : Bool) : State :=
  if max = s.max then s
  else if max then
    { s with
      max := true
      rfp := rfpIn true s.rfp
      pc := (s.pc.setWidth 16).setWidth 32
      banks := Four.zip (Bank.zip fun old u => u ++ old.setWidth 16) s.banks (s.freeBanks 16 0)
      draws := s.draws + 16 }
  else
    { s with
      max := false
      pc := (s.pc.setWidth 16).setWidth 32
      banks := Four.zip (Bank.zip fun old u => old.extractLsb' 16 16 ++ u) s.banks
        (s.freeBanks 16 0)
      minBanks := s.freeBanks 16 16
      draws := s.draws + 32 }

/-- SR.MAX is written (R17, R23); minimum mode must be available (00_scope.md R7,
93_implementation_defined.md U20). -/
def State.setMax (s : State) (max : Bool) : Out State :=
  if max || s.product.minModeAvailable then .next (s.changeMode max)
  else .refused .minimumModeNotAvailable

/-- All of SR is written, subject to its fixed bits (R21, R24, R25). -/
def State.setSr (s : State) (v : BitVec 16) : Out State :=
  andThen (s.setMax (v.getLsbD 11)) fun t =>
    .next { t with
      iff := v.extractLsb' 12 3
      rfp := rfpIn t.max (v.extractLsb' 8 3)
      f := Flags.ofByte (v.setWidth 8) }

/-! ## The width of control registers (10_state.md R30) -/

/-- The width that `CR_MAP` gives a control register. -/
def State.crWidth (s : State) : CReg → Size
  | .dmas _ => s.product.crMap.dmas
  | .dmad _ => s.product.crMap.dmad
  | .dmac _ => s.product.crMap.dmac
  | .dmam _ => s.product.crMap.dmam
  | .intnest => s.product.crMap.intnest

/-- A value cut to the width of a control register. -/
def State.crFit (s : State) (c : CReg) (v : Word32) : Word32 :=
  (v.setWidth (s.crWidth c).bits).setWidth 32

/-! ## Taking an exception and returning from it -/

/-- Where entry V of the vector table stands (60_exceptions.md R252). -/
def State.vectorAddr (s : State) (V : BitVec 24) : Word32 :=
  s.product.vectorBase.setWidth 32 + 4 * V.setWidth 32

/-- The frame of SWI (47_control.md R196): XSP moves past both, then SR is stored at it and
then PC above SR. DEDUCED (the order, notes/assumptions/43.md), unsafe. -/
def State.saveSrThenPc (s : State) : State :=
  let x := s.xsp - byteCount s.pcSize - 2
  ({ s with xsp := x }.memWrite .W x s.sr).memWrite s.pcSize (x + 2) (s.pc.setWidth _)

/-- The frame of a general-purpose interrupt (60_exceptions.md R257): the same bytes, PC pushed
first and then SR. -/
def State.savePcThenSr (s : State) : State := s.pushPc.push .W s.sr

/-- The entry that SWI (47_control.md R196) and a general-purpose interrupt
(60_exceptions.md R257) share, once the frame is stored: INTNEST goes up by 1 and the pc
comes from entry V of the table. -/
def State.enterException (s : State) (V : BitVec 24) : State :=
  { s with intnest := s.crFit .intnest (s.intnest + 1) }.jump
    ((s.memRead s.pcSize (s.vectorAddr V)).setWidth 32)

/-- Acceptance of a general-purpose interrupt of level L (60_exceptions.md R257). -/
def State.enterInterrupt (s : State) (L : BitVec 3) (V : BitVec 24) : State :=
  { s.savePcThenSr.enterException V with
    iff := if L = 7 then 7 else L + 1
    halted := false
    repeating := none }

/-- RETI (49_jump.md R238): SR from XSP, the pc above it at the width of the mode before
RETI, then the new SR and INTNEST down by 1. -/
def State.returnFromException (s : State) : Out State :=
  andThen ((s.popped .W).popPc.setSr (s.top .W)) fun t =>
    .next { t with intnest := t.crFit .intnest (t.intnest - 1) }

end Sys2Proof.Machine
end

