-- ==== Sys2Proof/Machine/Flags.lean ====
section
/-!
DEFINITION. Every flag computation: the helpers of 10_state.md R32 to R35, the two-operand
operations, rotates and shifts, DAA, the divisions, and the conditions. An argument `long`
says the operand is 32 bits; `u` is the free bit that then stands for an undefined flag
(93_implementation_defined.md U3, U4).
-/

namespace Sys2Proof.Machine

/-- `AddFlags` (10_state.md R32). -/
def addFlags {w : Nat} (a b : BitVec w) (cin long u : Bool) : BitVec w × Flags :=
  let full := a.toNat + b.toNat + cin.toNat
  let r := BitVec.ofNat w full
  (r,
    { s := r.msb
      z := decide (r = 0)
      h := if long then u else decide (a.toNat % 16 + b.toNat % 16 + cin.toNat > 15)
      v := a.msb == b.msb && r.msb != a.msb
      n := false
      c := decide (full ≥ 2 ^ w) })

/-- `SubFlags` (10_state.md R33). -/
def subFlags {w : Nat} (a b : BitVec w) (bin long u : Bool) : BitVec w × Flags :=
  let r := a - b - BitVec.ofNat w bin.toNat
  (r,
    { s := r.msb
      z := decide (r = 0)
      h := if long then u else decide (a.toNat % 16 < b.toNat % 16 + bin.toNat)
      v := a.msb != b.msb && r.msb != a.msb
      n := true
      c := decide (a.toNat < b.toNat + bin.toNat) })

/-- The number of 1 bits among the low `n` bits is even. -/
def evenOnes {w : Nat} (v : BitVec w) : Nat → Bool
  | 0 => true
  | n + 1 => evenOnes v n != v.getLsbD n

/-- `Parity` (10_state.md R34). -/
def parity {w : Nat} (v : BitVec w) (long u : Bool) : Bool := if long then u else evenOnes v w

/-- The two-operand operations (44_arithmetic.md R153), in the order of their index k. -/
inductive AluOp where
  | add
  | adc
  | sub
  | sbc
  | and
  | xor
  | or
  | cp
  deriving DecidableEq, Repr

/-- The flags of AND, OR and XOR: `SZ`, H as given, V parity, N and C 0 (45_logical.md
R160 to R162). -/
def logicFlags {w : Nat} (r : BitVec w) (h long u : Bool) : Flags :=
  { s := r.msb, z := decide (r = 0), h := h, v := parity r long u, n := false, c := false }

/-- The result and the flags of a two-operand operation (44_arithmetic.md R130 to R134,
45_logical.md R160 to R162). -/
def alu {w : Nat} (op : AluOp) (a b : BitVec w) (f : Flags) (long u : Bool) :
    BitVec w × Flags :=
  match op with
  | .add => addFlags a b false long u
  | .adc => addFlags a b f.c long u
  | .sub => subFlags a b false long u
  | .sbc => subFlags a b f.c long u
  | .and => (a &&& b, logicFlags (a &&& b) true long u)
  | .xor => (a ^^^ b, logicFlags (a ^^^ b) false long u)
  | .or => (a ||| b, logicFlags (a ||| b) false long u)
  | .cp => subFlags a b false long u

/-- `cond(cc)` (30_encoding.md R78). -/
def Flags.holds (f : Flags) : Cond → Bool
  | .f => false
  | .lt => f.s != f.v
  | .le => f.z || (f.s != f.v)
  | .ule => f.c || f.z
  | .ov => f.v
  | .mi => f.s
  | .z => f.z
  | .c => f.c
  | .t => true
  | .ge => f.s == f.v
  | .gt => !(f.z || (f.s != f.v))
  | .ugt => !(f.c || f.z)
  | .nov => !f.v
  | .pl => !f.s
  | .nz => !f.z
  | .nc => !f.c

/-- The eight rotates and shifts (48_rotate_shift.md R208), in the order of their index k. -/
inductive ShiftOp where
  | rlc
  | rrc
  | rl
  | rr
  | sla
  | sra
  | sll
  | srl
  deriving DecidableEq, Repr

/-- One step: the value and the carry after it (48_rotate_shift.md R210 to R217). -/
def shiftStep {w : Nat} (op : ShiftOp) (v : BitVec w) (c : Bool) : BitVec w × Bool :=
  let top (b : Bool) : BitVec w := (BitVec.ofBool b).setWidth w <<< (w - 1)
  let bottom (b : Bool) : BitVec w := (BitVec.ofBool b).setWidth w
  match op with
  | .rlc => (v <<< 1 ||| bottom v.msb, v.msb)
  | .rrc => (v >>> 1 ||| top (v.getLsbD 0), v.getLsbD 0)
  | .rl => (v <<< 1 ||| bottom c, v.msb)
  | .rr => (v >>> 1 ||| top c, v.getLsbD 0)
  | .sla => (v <<< 1, v.msb)
  | .sra => (v >>> 1 ||| top v.msb, v.getLsbD 0)
  | .sll => (v <<< 1, v.msb)
  | .srl => (v >>> 1, v.getLsbD 0)

/-- `n` steps in sequence (48_rotate_shift.md R208). -/
def shiftSteps {w : Nat} (op : ShiftOp) : Nat → BitVec w → Bool → BitVec w × Bool
  | 0, v, c => (v, c)
  | n + 1, v, c => shiftSteps op n (shiftStep op v c).1 (shiftStep op v c).2

/-- The repeat count: 0 means 16 (48_rotate_shift.md R208). -/
def shiftCount (c : BitVec 4) : Nat := if c.toNat = 0 then 16 else c.toNat

/-- The result and the flags of a rotate or shift (48_rotate_shift.md R209). -/
def shift {w : Nat} (op : ShiftOp) (n : Nat) (v : BitVec w) (f : Flags) (long u : Bool) :
    BitVec w × Flags :=
  let (r, c) := shiftSteps op n v f.c
  (r, { s := r.msb, z := decide (r = 0), h := false, v := parity r long u, n := false, c := c })

/-- The flags of RLD and RRD, from A (48_rotate_shift.md R218, R219). -/
def digitFlags (a : BitVec 8) (f : Flags) : Flags :=
  { s := a.msb, z := decide (a = 0), h := false, v := parity a false false, n := false, c := f.c }

/-- DAA as a total function (44_arithmetic.md R140). DESIGN CHOICE outside the source's
table (notes/assumptions/31.md), unsafe. -/
def decimalAdjust (v : BitVec 8) (f : Flags) : BitVec 8 × Flags :=
  let lo := v.toNat % 16
  let hi := v.toNat / 16
  let low : Bool := f.h || decide (lo > 9)
  let high : Bool := f.c || decide (hi > 9) || (decide (hi ≥ 9) && decide (lo > 9))
  let adj : BitVec 8 :=
    if f.n then (if f.h then 0xFA else 0x00) + (if f.c then 0xA0 else 0x00)
    else (if low then 0x06 else 0x00) + (if high then 0x60 else 0x00)
  let res := v + adj
  (res,
    { s := res.msb
      z := decide (res = 0)
      h := decide (lo + adj.toNat % 16 > 15)
      v := parity res false false
      n := f.n
      c := if f.n then f.c else high })

/-- Unsigned division of `2w` bits by `w` bits (44_arithmetic.md R144): `none` where V is
set, else remainder above quotient. -/
def divide (w : Nat) (n d : Nat) : Option (BitVec (w + w)) :=
  if d = 0 ∨ n / d ≥ 2 ^ w then none
  else some (BitVec.ofNat w (n % d) ++ BitVec.ofNat w (n / d))

/-- Signed division, truncating toward zero (44_arithmetic.md R145). -/
def divideSigned (w : Nat) (n d : Int) : Option (BitVec (w + w)) :=
  if d = 0 then none
  else
    let q := n.tdiv d
    let rem := n - q * d
    if q < -(2 ^ (w - 1) : Int) ∨ q > 2 ^ (w - 1) - 1 then none
    else some (BitVec.ofInt w rem ++ BitVec.ofInt w q)

/-- The least bit of `v` that is 1, among bits `i` to `i + n - 1` (46_bit.md R184). -/
def lowestOne (v : BitVec 16) : Nat → Nat → Option Nat
  | _, 0 => none
  | i, n + 1 => if v.getLsbD i then some i else lowestOne v (i + 1) n

/-- The greatest bit of `v` below bit `n` that is 1 (46_bit.md R185). -/
def highestOne (v : BitVec 16) : Nat → Option Nat
  | 0 => none
  | n + 1 => if v.getLsbD n then some n else highestOne v n

/-- The bit pattern reversed (42_exchange.md R111). -/
def mirror (v : BitVec 16) : BitVec 16 := v.reverse

end Sys2Proof.Machine
end

