-- ==== Sys2Proof/Machine/Operands.lean ====
section
/-!
DEFINITION. Every operand form: registers by 3-bit code and by 8-bit code, memory operands
in their eleven modes, and control registers (30_encoding.md R63 to R75, 10_state.md R30).
-/

namespace Sys2Proof.Machine

/-! ## Registers -/

/-- The register of a 3-bit code at an operand size (30_encoding.md R63). -/
def shortDesig (sz : Size) (c : BitVec 3) : RegDesig :=
  match sz, c.toNat with
  | .B, 0 => ⟨.cur .xwa, 1⟩
  | .B, 1 => ⟨.cur .xwa, 0⟩
  | .B, 2 => ⟨.cur .xbc, 1⟩
  | .B, 3 => ⟨.cur .xbc, 0⟩
  | .B, 4 => ⟨.cur .xde, 1⟩
  | .B, 5 => ⟨.cur .xde, 0⟩
  | .B, 6 => ⟨.cur .xhl, 1⟩
  | .B, _ => ⟨.cur .xhl, 0⟩
  | _, 0 => ⟨.cur .xwa, 0⟩
  | _, 1 => ⟨.cur .xbc, 0⟩
  | _, 2 => ⟨.cur .xde, 0⟩
  | _, 3 => ⟨.cur .xhl, 0⟩
  | _, 4 => ⟨.fixed .xix, 0⟩
  | _, 5 => ⟨.fixed .xiy, 0⟩
  | _, 6 => ⟨.fixed .xiz, 0⟩
  | _, _ => ⟨.fixed .xsp, 0⟩

/-- The banked register that bits 3:2 of a register code select (30_encoding.md R66). -/
def bankedOf (i : BitVec 2) : BankedReg :=
  match i.toNat with
  | 0 => .xwa
  | 1 => .xbc
  | 2 => .xde
  | _ => .xhl

/-- The fixed register that bits 3:2 of a register code select (30_encoding.md R66). -/
def fixedOf (i : BitVec 2) : FixedReg :=
  match i.toNat with
  | 0 => .xix
  | 1 => .xiy
  | 2 => .xiz
  | _ => .xsp

/-- Register map "r" of maximum mode (30_encoding.md R66); codes 40H to CFH name no
register. -/
def maxModeRegMap (code : BitVec 8) : Option RegDesig :=
  let i : BitVec 2 := code.extractLsb' 2 2
  let off : BitVec 2 := code.setWidth 2
  match code.toNat / 16 with
  | 0 => some ⟨.abs 0 (bankedOf i), off⟩
  | 1 => some ⟨.abs 1 (bankedOf i), off⟩
  | 2 => some ⟨.abs 2 (bankedOf i), off⟩
  | 3 => some ⟨.abs 3 (bankedOf i), off⟩
  | 13 => some ⟨.prev (bankedOf i), off⟩
  | 14 => some ⟨.cur (bankedOf i), off⟩
  | 15 => some ⟨.fixed (fixedOf i), off⟩
  | _ => none

/-- The register of an 8-bit code in the current mode (30_encoding.md R66, R67). -/
def State.regMap (s : State) (code : BitVec 8) : Option RegDesig :=
  if s.max then maxModeRegMap code
  else
    match s.product.minModeRegMap with
    | some l => l.lookup code
    | none => Config.minModeRegMap code

/-- The register itself (10_state.md R14). -/
def State.place (s : State) : RegBase → PReg
  | .cur k => .bank s.curBank k
  | .prev k => .bank s.prevBank k
  | .abs n k => .bank n k
  | .fixed j => .fixed j

/-- The part of a register that an operand of size `sz` is. In minimum mode a banked
register has 16 bits (10_state.md R11, 93_implementation_defined.md U21). In maximum mode
every code that is a multiple of the size is a part within its register. A map of minimum
mode may send a code to any byte, of which the spec says nothing (30_encoding.md R67): the
part starts at that byte, at an odd one too, and where it would pass the last byte of the
register it is a fault. DESIGN CHOICE (notes/assumptions/8.md), unsafe. -/
def State.resolve (s : State) (sz : Size) (d : RegDesig) : Out Slot :=
  if d.off.toNat + sz.bytes ≤ 2 then .next ⟨s.place d.base, d.off⟩
  else
    match d.base with
    | .fixed j =>
      if d.off.toNat + sz.bytes ≤ 4 then .next ⟨.fixed j, d.off⟩ else .fault .undefinedRegisterCode
    | _ =>
      if ¬ s.max then .fault .bankedLongInMinimumMode
      else if d.off.toNat + sz.bytes ≤ 4 then .next ⟨s.place d.base, d.off⟩
      else .fault .undefinedRegisterCode

/-- The operand `R` (30_encoding.md R63). -/
def State.shortSlot (s : State) (sz : Size) (c : BitVec 3) : Out Slot :=
  s.resolve sz (shortDesig sz c)

/-- A register by its 8-bit code (30_encoding.md R65, R66). -/
def State.codeSlot (s : State) (sz : Size) (code : BitVec 8) : Out Slot :=
  match s.regMap code with
  | some d => s.resolve sz d
  | none => .fault .undefinedRegisterCode

/-- The operand `r` (30_encoding.md R64, R65). -/
def State.regSlot (s : State) (sz : Size) : RegOp → Out Slot
  | .short c => s.shortSlot sz c
  | .ext code => s.codeSlot sz code

/-- The destination `RR` of a multiply or divide of size `sz`: the register of twice the
size at the code of the register that `sz` names (44_arithmetic.md R142). -/
def State.shortDouble (s : State) (sz : Size) (c : BitVec 3) : Out Slot :=
  s.resolve sz.double (shortDesig sz c)

/-- The destination `rr` of a multiply or divide of size `sz` (44_arithmetic.md R142). -/
def State.regDouble (s : State) (sz : Size) : RegOp → Out Slot
  | .short c => s.shortDouble sz c
  | .ext code => s.codeSlot sz.double code

/-! ## Registers as addresses (10_state.md R18) -/

/-- A register that supplies an address. In minimum mode a banked one is `narrow`: its 16
bits are extended with zeros. -/
structure AddrReg where
  reg : PReg
  narrow : Bool
  deriving DecidableEq, Repr

/-- The bits of an address register: 16 of a narrow one, else 32. -/
def AddrReg.trunc (r : AddrReg) (v : Word32) : Word32 :=
  if r.narrow then (v.setWidth 16).setWidth 32 else v

/-- The address a register supplies. -/
def State.addrValue (s : State) (r : AddrReg) : Word32 := r.trunc (s.reg r.reg)

/-- Write all bits of an address register. -/
def State.setAddrReg (s : State) (r : AddrReg) (v : Word32) : State :=
  if r.narrow then s.setReg r.reg (insertBits (s.reg r.reg) 0 (v.setWidth 16))
  else s.setReg r.reg v

/-- Add to an address register, modulo 2^32 or, for a narrow one, 2^16 (30_encoding.md
R74). -/
def State.stepAddrReg (s : State) (r : AddrReg) (d : Word32) : State :=
  s.setAddrReg r (s.addrValue r + d)

def State.addrRegAt (s : State) (b : RegBase) : AddrReg :=
  match b with
  | .fixed j => ⟨.fixed j, false⟩
  | _ => ⟨s.place b, !s.max⟩

/-- The 32-bit register of a 3-bit code (30_encoding.md R70). -/
def State.shortAddrReg (s : State) (c : BitVec 3) : AddrReg :=
  s.addrRegAt (shortDesig .L c).base

/-- The 32-bit register of an 8-bit code (30_encoding.md R72, R73). In maximum mode such a
code is a multiple of 4 and its part starts at byte 0; a map of minimum mode may send it to
a part that does not, of which the spec says nothing: that is a fault. DESIGN CHOICE
(notes/assumptions/8.md), safe. -/
def State.codeAddrReg (s : State) (code : BitVec 8) : Out AddrReg :=
  match s.regMap code with
  | some d => if d.off = 0 then .next (s.addrRegAt d.base) else .fault .undefinedRegisterCode
  | none => .fault .undefinedRegisterCode

/-- The register code of an `r32` field: its upper six bits (30_encoding.md R72). -/
def fullCode (r32 : BitVec 6) : BitVec 8 := r32 ++ 0#2

/-! ## Memory operands (30_encoding.md R70 to R75) -/

/-- The bytes a step code stands for (30_encoding.md R74). -/
def stepBytes : Step → Word32
  | .one => 1
  | .two => 2
  | .four => 4

/-- The register that a mode steps: none, by a pre-decrement before the access
(30_encoding.md R74), or by a post-increment of `d` after the operation (R75). -/
inductive Stepping where
  | none
  | pre (r : AddrReg)
  | post (r : AddrReg) (d : Word32)
  deriving DecidableEq, Repr

/-- An effective address and the register that the mode steps. -/
structure Eff where
  addr : Word32
  stepping : Stepping
  deriving DecidableEq, Repr

/-- The effective address of a memory operand. No register is changed yet. -/
def State.eff (s : State) : MemOp → Out Eff
  | .ind R => .next ⟨s.addrValue (s.shortAddrReg R), .none⟩
  | .disp8 R d => .next ⟨s.addrValue (s.shortAddrReg R) + d.signExtend 32, .none⟩
  | .abs8 a => .next ⟨a.setWidth 32, .none⟩
  | .abs16 a => .next ⟨a.setWidth 32, .none⟩
  | .abs24 a => .next ⟨a.setWidth 32, .none⟩
  | .indExt r32 =>
    andThen (s.codeAddrReg (fullCode r32)) fun r => .next ⟨s.addrValue r, .none⟩
  | .disp16 r32 d =>
    andThen (s.codeAddrReg (fullCode r32)) fun r =>
      .next ⟨s.addrValue r + d.signExtend 32, .none⟩
  | .index8 base idx =>
    andThen (s.codeAddrReg base) fun r =>
    andThen (s.codeSlot .B idx) fun i =>
      .next ⟨s.addrValue r + (s.slot .B i).signExtend 32, .none⟩
  | .index16 base idx =>
    andThen (s.codeAddrReg base) fun r =>
    andThen (s.codeSlot .W idx) fun i =>
      .next ⟨s.addrValue r + (s.slot .W i).signExtend 32, .none⟩
  | .preDec r32 step =>
    andThen (s.codeAddrReg (fullCode r32)) fun r =>
      .next ⟨r.trunc (s.addrValue r - stepBytes step), .pre r⟩
  | .postInc r32 step =>
    andThen (s.codeAddrReg (fullCode r32)) fun r =>
      .next ⟨s.addrValue r, .post r (stepBytes step)⟩

/-- The pre-decrement, done before the operands are read (30_encoding.md R74). -/
def State.preStep (s : State) (e : Eff) : State :=
  match e.stepping with
  | .pre r => s.setAddrReg r e.addr
  | _ => s

/-- The post-increment, "After the operation" (30_encoding.md R75). -/
def State.postStep (s : State) (e : Eff) : State :=
  match e.stepping with
  | .post r d => s.stepAddrReg r d
  | _ => s

/-- Go on with the effective address of `m`, in the state its pre-decrement leaves. -/
def State.withMem {α : Type} (s : State) (m : MemOp) (k : Eff → State → Out α) : Out α :=
  andThen (s.eff m) fun e => k e (s.preStep e)

/-- The register that the mode steps, if any. -/
def Eff.stepped (e : Eff) : Option AddrReg :=
  match e.stepping with
  | .none => none
  | .pre r => some r
  | .post r _ => some r

/-- Write a destination register and finish the memory operand. Where the mode steps that
very register the order of the two writes is open (93_implementation_defined.md U30), and
the register becomes a free value. DESIGN CHOICE (notes/assumptions/27.md), safe. -/
def State.setSlotAndStep (s : State) (e : Eff) (sz : Size) (sl : Slot) (v : BitVec sz.bits) :
    State :=
  match e.stepped with
  | some r =>
    if r.reg = sl.reg then (s.setAddrReg r (s.free 32 0)).drawn 1
    else (s.setSlot sz sl v).postStep e
  | none => s.setSlot sz sl v

/-- The effective address of LDA, JP and CALL, which do not access it. With (-r32) or (r32+)
they are refused, as 41_load.md R103, 49_jump.md R230, R233 and 92_eei_decisions.md D21 say,
unless the product's `bareStep` has them run (notes/assumptions/26.md). -/
def State.addressEff (s : State) (m : MemOp) : Out Eff :=
  andThen (s.eff m) fun e =>
    match e.stepped, s.product.bareStep with
    | some _, .refused => .refused .stepWithoutAccess
    | _, _ => .next e

/-- Do `k` after an effective address that is not accessed. Where (-r32) and (r32+) run, a
free bit says whether they step their register. DESIGN CHOICE (notes/assumptions/26.md),
unsafe. -/
def State.addressOnly (s : State) (e : Eff) (k : State → State) : State :=
  match e.stepped with
  | some _ =>
    if s.freeBit 0 then (k ((s.drawn 1).preStep e)).postStep e else k (s.drawn 1)
  | none => k s

/-! ## Control registers (10_state.md R29, R30) -/

/-- The control register of a code at a size (47_control.md R198,
93_implementation_defined.md U18). -/
def State.crOf (s : State) (sz : Size) (code : BitVec 8) : Out CReg :=
  match s.product.crMap.codes.lookup code with
  | some c => if s.crWidth c = sz then .next c else .refused .controlRegisterNotDescribed
  | none => .refused .controlRegisterNotDescribed

/-- A control register, zero-extended. -/
def State.creg (s : State) : CReg → Word32
  | .dmas n => s.dmas.get n
  | .dmad n => s.dmad.get n
  | .dmac n => s.dmac.get n
  | .dmam n => s.dmam.get n
  | .intnest => s.intnest

/-- Write a control register at its width. -/
def State.setCreg (s : State) (c : CReg) (v : Word32) : State :=
  match c with
  | .dmas n => { s with dmas := s.dmas.set n (s.crFit c v) }
  | .dmad n => { s with dmad := s.dmad.set n (s.crFit c v) }
  | .dmac n => { s with dmac := s.dmac.set n (s.crFit c v) }
  | .dmam n => { s with dmam := s.dmam.set n (s.crFit c v) }
  | .intnest => { s with intnest := s.crFit c v }

end Sys2Proof.Machine
end

