-- ==== Sys2Proof/Machine/Load.lean ====
section
/-!
DEFINITION. The meanings of the load instructions (41_load.md R100 to R104).
In a meaning the pc is already past the instruction (00_scope.md R8).
-/

namespace Sys2Proof.Machine

/-- `reg <- v`. -/
def loadReg (sz : Size) (dst : Out Slot) (v : BitVec sz.bits) (s : State) : Out State :=
  andThen dst fun d => .next (s.setSlot sz d v)

/-- `reg <- reg`. -/
def copyReg (sz : Size) (dst src : Out Slot) (s : State) : Out State :=
  andThen dst fun d => andThen src fun a => .next (s.setSlot sz d (s.slot sz a))

/-- `reg <- g reg`. -/
def updateReg (sz : Size) (dst : Out Slot) (g : BitVec sz.bits → BitVec sz.bits) (s : State) :
    Out State :=
  andThen dst fun d => .next (s.setSlot sz d (g (s.slot sz d)))

/-- `reg <- (mem)`. -/
def loadMem (sz : Size) (dst : Out Slot) (m : MemOp) (s : State) : Out State :=
  andThen dst fun d =>
  s.withMem m fun e t => .next (t.setSlotAndStep e sz d (t.memRead sz e.addr))

/-- `(mem) <- v`, the value taken in the state the pre-decrement leaves. -/
def storeValue (sz : Size) (m : MemOp) (v : State → BitVec sz.bits) (s : State) : Out State :=
  s.withMem m fun e t => .next ((t.memWrite sz e.addr (v t)).postStep e)

/-- `(mem) <- reg`. -/
def storeReg (sz : Size) (m : MemOp) (src : Out Slot) (s : State) : Out State :=
  andThen src fun a => storeValue sz m (fun t => t.slot sz a) s

/-- `(#16) <- (mem)`. -/
def copyToAbs (sz : Size) (a : BitVec 16) (m : MemOp) (s : State) : Out State :=
  s.withMem m fun e t =>
    .next ((t.memWrite sz (a.setWidth 32) (t.memRead sz e.addr)).postStep e)

/-- PUSH of a register (R101). For a part of XSP it is open whether the value is taken
before or after the decrement (93_implementation_defined.md U31): a free bit decides.
DESIGN CHOICE (notes/assumptions/29.md), unsafe. -/
def State.pushSlot (s : State) (sz : Size) (a : Slot) : State :=
  if a.reg = .fixed .xsp then
    (s.push sz
      (if s.freeBit 0 then s.slot sz a
       else { s with xsp := s.xsp - byteCount sz }.slot sz a)).drawn 1
  else s.push sz (s.slot sz a)

/-- POP of a register (R102). For a part of XSP it is open whether the loaded value or the
incremented XSP remains (93_implementation_defined.md U31): a free bit decides. DESIGN
CHOICE (notes/assumptions/29.md), unsafe. -/
def State.popSlot (s : State) (sz : Size) (a : Slot) : State :=
  if a.reg = .fixed .xsp then
    (if s.freeBit 0 then (s.popped sz).setSlot sz a (s.top sz) else s.popped sz).drawn 1
  else (s.popped sz).setSlot sz a (s.top sz)

def pushReg (sz : Size) (src : Out Slot) (s : State) : Out State :=
  andThen src fun a => .next (s.pushSlot sz a)

def popReg (sz : Size) (dst : Out Slot) (s : State) : Out State :=
  andThen dst fun d => .next (s.popSlot sz d)

/-- PUSH (mem): the operand is read before XSP is decremented (R101). -/
def pushMem (sz : Size) (m : MemOp) (s : State) : Out State :=
  s.withMem m fun e t => .next ((t.push sz (t.memRead sz e.addr)).postStep e)

/-- POP (mem): the address first, then the pop (R102, 93_implementation_defined.md U31). -/
def popMem (sz : Size) (m : MemOp) (s : State) : Out State :=
  s.withMem m fun e t => .next (((t.popped sz).memWrite sz e.addr (t.top sz)).postStep e)

/-- LDA (R103). Where (-r32) and (r32+) are not refused, the address is the decremented
value and the register's, and a free bit says whether the register steps. DESIGN CHOICE
(notes/assumptions/26.md), unsafe. -/
def loadAddress (sz : Size) (R : BitVec 3) (m : MemOp) (s : State) : Out State :=
  andThen (s.shortSlot sz R) fun d =>
  andThen (s.addressEff m) fun e =>
    match e.stepped with
    | none => .next (s.setSlot sz d (e.addr.setWidth _))
    | some _ =>
      if s.freeBit 0 then
        .next (((s.drawn 1).preStep e).setSlotAndStep e sz d (e.addr.setWidth _))
      else .next ((s.drawn 1).setSlot sz d (e.addr.setWidth _))

/-- `LD (#8),#8` (R100). -/
def execLdA8I8 (a : BitVec 8) (v : BitVec 8) (s : State) : Out State :=
  .next (s.memWrite .B (a.setWidth 32) v)

/-- `PUSH #8` (R101). -/
def execPushI8 (v : BitVec 8) (s : State) : Out State := .next (s.push .B v)

/-- `LDW (#8),#16` (R100). -/
def execLdwA8I16 (a : BitVec 8) (v : BitVec 16) (s : State) : Out State :=
  .next (s.memWrite .W (a.setWidth 32) v)

/-- `PUSHW #16` (R101). -/
def execPushwI16 (v : BitVec 16) (s : State) : Out State := .next (s.push .W v)

/-- `PUSH A` (R101). -/
def execPushA (s : State) : Out State := .next (s.push .B s.regA)

/-- `POP A` (R102). -/
def execPopA (s : State) : Out State := .next ((s.popped .B).setRegA (s.top .B))

/-- `PUSH F` (R101). -/
def execPushF (s : State) : Out State := .next (s.push .B s.f.byte)

/-- `POP F` (R102). -/
def execPopF (s : State) : Out State := .next { s.popped .B with f := Flags.ofByte (s.top .B) }

/-- `LD R,#8` (R100). -/
def execLdRI8 (R : BitVec 3) (v : BitVec 8) (s : State) : Out State :=
  loadReg .B (s.shortSlot .B R) v s

/-- `PUSH R (word)` (R101). -/
def execPushRW (R : BitVec 3) (s : State) : Out State := pushReg .W (s.shortSlot .W R) s

/-- `LD R,#16` (R100). -/
def execLdRI16 (R : BitVec 3) (v : BitVec 16) (s : State) : Out State :=
  loadReg .W (s.shortSlot .W R) v s

/-- `PUSH R (long word)` (R101). -/
def execPushRL (R : BitVec 3) (s : State) : Out State := pushReg .L (s.shortSlot .L R) s

/-- `LD R,#32` (R100). -/
def execLdRI32 (R : BitVec 3) (v : BitVec 32) (s : State) : Out State :=
  loadReg .L (s.shortSlot .L R) v s

/-- `POP R (word)` (R102). -/
def execPopRW (R : BitVec 3) (s : State) : Out State := popReg .W (s.shortSlot .W R) s

/-- `POP R (long word)` (R102). -/
def execPopRL (R : BitVec 3) (s : State) : Out State := popReg .L (s.shortSlot .L R) s

/-- `LD r,#` (R100). -/
def execLdrI (sz : Size) (r : RegOp) (imm : BitVec sz.bits) (s : State) : Out State :=
  loadReg sz (s.regSlot sz r) imm s

/-- `PUSH r` (R101). -/
def execPushr (sz : Size) (r : RegOp) (s : State) : Out State := pushReg sz (s.regSlot sz r) s

/-- `POP r` (R102). -/
def execPopr (sz : Size) (r : RegOp) (s : State) : Out State := popReg sz (s.regSlot sz r) s

/-- `LD R,r` (R100). -/
def execLdRr (sz : Size) (R : BitVec 3) (r : RegOp) (s : State) : Out State :=
  copyReg sz (s.shortSlot sz R) (s.regSlot sz r) s

/-- `LD r,R` (R100). -/
def execLdrR (sz : Size) (r : RegOp) (R : BitVec 3) (s : State) : Out State :=
  copyReg sz (s.regSlot sz r) (s.shortSlot sz R) s

/-- `LD r,#3` (R100). -/
def execLdrN (sz : Size) (r : RegOp) (n : BitVec 3) (s : State) : Out State :=
  loadReg sz (s.regSlot sz r) (n.setWidth _) s

/-- `LDAR R,$+4+d16` (R104). -/
def execLdar (sz : Size) (R : BitVec 3) (d : BitVec 16) (s : State) : Out State :=
  loadReg sz (s.shortSlot sz R) ((s.pcOf (s.pc - 1 + d.signExtend 32)).setWidth _) s

/-- `LD (mem),#8` (R100). -/
def execLdmI8 (m : MemOp) (v : BitVec 8) (s : State) : Out State := storeValue .B m (fun _ => v) s

/-- `LDW (mem),#16` (R100). -/
def execLdwmI16 (m : MemOp) (v : BitVec 16) (s : State) : Out State :=
  storeValue .W m (fun _ => v) s

/-- `POP (mem)` (R102). -/
def execPopm (m : MemOp) (s : State) : Out State := popMem .B m s

/-- `POPW (mem)` (R102). -/
def execPopwm (m : MemOp) (s : State) : Out State := popMem .W m s

/-- `LD (mem),(#16)` (R100). -/
def execLdmA16 (m : MemOp) (a : BitVec 16) (s : State) : Out State :=
  storeValue .B m (fun t => t.memRead .B (a.setWidth 32)) s

/-- `LDW (mem),(#16)` (R100). -/
def execLdwmA16 (m : MemOp) (a : BitVec 16) (s : State) : Out State :=
  storeValue .W m (fun t => t.memRead .W (a.setWidth 32)) s

/-- `LDA R,mem (word R)` (R103). -/
def execLdaW (R : BitVec 3) (m : MemOp) (s : State) : Out State := loadAddress .W R m s

/-- `LDA R,mem (long-word R)` (R103). -/
def execLdaL (R : BitVec 3) (m : MemOp) (s : State) : Out State := loadAddress .L R m s

/-- `LD (mem),R (byte)` (R100). -/
def execLdmRB (m : MemOp) (R : BitVec 3) (s : State) : Out State :=
  storeReg .B m (s.shortSlot .B R) s

/-- `LD (mem),R (word)` (R100). -/
def execLdmRW (m : MemOp) (R : BitVec 3) (s : State) : Out State :=
  storeReg .W m (s.shortSlot .W R) s

/-- `LD (mem),R (long word)` (R100). -/
def execLdmRL (m : MemOp) (R : BitVec 3) (s : State) : Out State :=
  storeReg .L m (s.shortSlot .L R) s

/-- `PUSH (mem) / PUSHW (mem)` (R101). -/
def execPushm (sz : Size) (m : MemOp) (s : State) : Out State := pushMem sz m s

/-- `LD (#16),(mem) / LDW (#16),(mem)` (R100). -/
def execLdA16m (sz : Size) (a : BitVec 16) (m : MemOp) (s : State) : Out State := copyToAbs sz a m s

/-- `LD R,(mem)` (R100). -/
def execLdRm (sz : Size) (R : BitVec 3) (m : MemOp) (s : State) : Out State :=
  loadMem sz (s.shortSlot sz R) m s

end Sys2Proof.Machine
end

