-- ==== Sys2Proof/Machine/Alu.lean ====
section
/-!
DEFINITION. The meanings of the five two-operand forms that the arithmetic and the logical instructions share
(44_arithmetic.md R153).
In a meaning the pc is already past the instruction (00_scope.md R8).
-/

namespace Sys2Proof.Machine

/-- The result and the flags of `dst op b`; the first coming draw is the undefined flag of
a 32-bit operation. -/
def State.aluResult (s : State) (op : AluOp) (sz : Size) (a b : BitVec sz.bits) :
    BitVec sz.bits × Flags :=
  alu op a b s.f (decide (sz = .L)) (s.freeBit 0)

/-- `reg op= b`; CP writes no register. -/
def State.aluSlot (s : State) (op : AluOp) (sz : Size) (d : Slot) (b : BitVec sz.bits) : State :=
  let r := s.aluResult op sz (s.slot sz d) b
  let t : State := if op = .cp then s else s.setSlot sz d r.1
  { t with f := r.2 }.drawn 1

/-- `op R,r`. -/
def aluReg (op : AluOp) (sz : Size) (dst src : Out Slot) (s : State) : Out State :=
  andThen dst fun d => andThen src fun a => .next (s.aluSlot op sz d (s.slot sz a))

/-- `op r,#`. -/
def aluImm (op : AluOp) (sz : Size) (dst : Out Slot) (imm : BitVec sz.bits) (s : State) :
    Out State :=
  andThen dst fun d => .next (s.aluSlot op sz d imm)

/-- `op R,(mem)`. -/
def aluRegMem (op : AluOp) (sz : Size) (dst : Out Slot) (m : MemOp) (s : State) : Out State :=
  andThen dst fun d =>
  s.withMem m fun e t =>
    let r := t.aluResult op sz (t.slot sz d) (t.memRead sz e.addr)
    let u := { t with f := r.2 }.drawn 1
    .next (if op = .cp then u.postStep e else u.setSlotAndStep e sz d r.1)

/-- `(mem) op= b`, and the memory operand finished; CP writes no memory. -/
def State.aluMem (s : State) (op : AluOp) (sz : Size) (e : Eff) (b : BitVec sz.bits) : State :=
  let r := s.aluResult op sz (s.memRead sz e.addr) b
  let t : State := if op = .cp then s else s.memWrite sz e.addr r.1
  ({ t with f := r.2 }.drawn 1).postStep e

/-- `op (mem),R`. -/
def aluMemReg (op : AluOp) (sz : Size) (m : MemOp) (src : Out Slot) (s : State) : Out State :=
  andThen src fun a => s.withMem m fun e t => .next (t.aluMem op sz e (t.slot sz a))

/-- `op (mem),#`. -/
def aluMemImm (op : AluOp) (sz : Size) (m : MemOp) (imm : BitVec sz.bits) (s : State) :
    Out State :=
  s.withMem m fun e t => .next (t.aluMem op sz e imm)

end Sys2Proof.Machine
end

