-- ==== Sys2Proof/Machine/Arithmetic.lean ====
section
/-!
DEFINITION. The meanings of the arithmetic instructions (44_arithmetic.md R130 to R154).
In a meaning the pc is already past the instruction (00_scope.md R8).
-/

namespace Sys2Proof.Machine

/-- The count of INC and DEC: code 0 means 8 (R135). -/
def stepCount (n : BitVec 3) : Nat := if n.toNat = 0 then 8 else n.toNat

/-- `INC #3,r` and `DEC #3,r` (R135, R136): a byte register sets the flags and keeps C, a
word or long-word register sets none. -/
def countReg (op : AluOp) (sz : Size) (n : BitVec 3) (dst : Out Slot) (s : State) : Out State :=
  andThen dst fun d =>
    let r := s.aluResult op sz (s.slot sz d) (BitVec.ofNat _ (stepCount n))
    .next
      (if sz = .B then { s.setSlot sz d r.1 with f := { r.2 with c := s.f.c } }
       else s.setSlot sz d r.1)

/-- `INC #3,(mem)` and `DEC #3,(mem)` (R135, R136): the flags at either size, C kept. -/
def countMem (op : AluOp) (sz : Size) (n : BitVec 3) (m : MemOp) (s : State) : Out State :=
  s.withMem m fun e t =>
    let r := t.aluResult op sz (t.memRead sz e.addr) (BitVec.ofNat _ (stepCount n))
    .next ({ t.memWrite sz e.addr r.1 with f := { r.2 with c := t.f.c } }.postStep e)

/-- NEG (R137): `0 - reg`. -/
def negate (sz : Size) (dst : Out Slot) (s : State) : Out State :=
  andThen dst fun d =>
    let r := s.aluResult .sub sz 0 (s.slot sz d)
    .next { s.setSlot sz d r.1 with f := r.2 }

/-- EXTZ (R138): the upper half becomes 0. -/
def zeroUpper (sz : Size) (v : BitVec sz.bits) : BitVec sz.bits :=
  (v.setWidth (sz.bits / 2)).setWidth sz.bits

/-- EXTS (R139): the upper half becomes copies of the lower half's sign. -/
def signUpper (sz : Size) (v : BitVec sz.bits) : BitVec sz.bits :=
  (v.setWidth (sz.bits / 2)).signExtend sz.bits

/-- PAA (R141): add 1 to an odd value. -/
def makeEven {w : Nat} (v : BitVec w) : BitVec w := if v.getLsbD 0 then v + 1 else v

/-- DAA (R140). -/
def adjustReg (dst : Out Slot) (s : State) : Out State :=
  andThen dst fun d =>
    let r := decimalAdjust (s.slot .B d) s.f
    .next { s.setSlot .B d r.1 with f := r.2 }

/-- MUL and MULS (R142, R143): the product in twice the width. -/
def product (signed : Bool) (sz : Size) (a b : BitVec sz.bits) : BitVec sz.double.bits :=
  if signed then BitVec.ofInt _ (a.toInt * b.toInt) else BitVec.ofNat _ (a.toNat * b.toNat)

/-- `MUL RR,r`: the lower half of the destination is the multiplicand. -/
def multiplyReg (signed : Bool) (sz : Size) (dst src : Out Slot) (s : State) : Out State :=
  andThen dst fun d => andThen src fun a =>
    .next (s.setSlot sz.double d (product signed sz (s.slot sz d) (s.slot sz a)))

/-- `MUL rr,#`. -/
def multiplyImm (signed : Bool) (sz : Size) (dst : Out Slot) (imm : BitVec sz.bits)
    (s : State) : Out State :=
  andThen dst fun d => .next (s.setSlot sz.double d (product signed sz (s.slot sz d) imm))

/-- `MUL RR,(mem)`. -/
def multiplyMem (signed : Bool) (sz : Size) (dst : Out Slot) (m : MemOp) (s : State) :
    Out State :=
  andThen dst fun d =>
  s.withMem m fun e t =>
    .next (t.setSlotAndStep e sz.double d
      (product signed sz (t.slot sz d) (t.memRead sz e.addr)))

/-- Remainder above quotient, or `none` where V is set (R144, R145). -/
def quotient (signed : Bool) (sz : Size) (n : BitVec sz.double.bits) (d : BitVec sz.bits) :
    Option (BitVec sz.double.bits) :=
  ((if signed then divideSigned sz.bits n.toInt d.toInt else divide sz.bits n.toNat d.toNat)
    ).map fun q => q.setWidth _

/-- The destination and V of DIV and DIVS (R144, R145): with V = 1 the destination is the
first coming draw (93_implementation_defined.md U9). -/
def State.divideResult (s : State) (signed : Bool) (sz : Size) (n : BitVec sz.double.bits)
    (d : BitVec sz.bits) : BitVec sz.double.bits × Bool :=
  match quotient signed sz n d with
  | some q => (q, false)
  | none => (s.free _ 0, true)

/-- `DIV RR,r`. -/
def divideReg (signed : Bool) (sz : Size) (dst src : Out Slot) (s : State) : Out State :=
  andThen dst fun d => andThen src fun a =>
    let r := s.divideResult signed sz (s.slot sz.double d) (s.slot sz a)
    .next ({ s.setSlot sz.double d r.1 with f := { s.f with v := r.2 } }.drawn 1)

/-- `DIV rr,#`. -/
def divideImm (signed : Bool) (sz : Size) (dst : Out Slot) (imm : BitVec sz.bits) (s : State) :
    Out State :=
  andThen dst fun d =>
    let r := s.divideResult signed sz (s.slot sz.double d) imm
    .next ({ s.setSlot sz.double d r.1 with f := { s.f with v := r.2 } }.drawn 1)

/-- `DIV RR,(mem)`. -/
def divideMem (signed : Bool) (sz : Size) (dst : Out Slot) (m : MemOp) (s : State) : Out State :=
  andThen dst fun d =>
  s.withMem m fun e t =>
    let r := t.divideResult signed sz (t.slot sz.double d) (t.memRead sz e.addr)
    .next (({ t with f := { t.f with v := r.2 } }.drawn 1).setSlotAndStep e sz.double d r.1)

/-- MULA (R146): `reg + (XDE) * (XHL)`, signed, and XHL down by 2. Where the destination is
XHL the order of the two writes is open and it becomes a free value, which S and Z follow
(93_implementation_defined.md U30; DESIGN CHOICE, notes/assumptions/28.md, unsafe). Not in
minimum mode (U21). The second factor is read after a draw, so that two reads of one open
address are two values. -/
def multiplyAdd (dst : Out Slot) (s : State) : Out State :=
  if ¬ s.max then .fault .bankedLongInMinimumMode
  else
    andThen dst fun d =>
      let xde := s.curSlot .xde
      let xhl := s.curSlot .xhl
      let sum : Int := (s.slot .L d).toInt +
        (s.memRead .W (s.slot .L xde)).toInt * ((s.drawn 1).memRead .W (s.slot .L xhl)).toInt
      let t : State :=
        if d.reg = xhl.reg then s.setSlot .L xhl (s.free 32 0)
        else (s.setSlot .L d (BitVec.ofInt 32 sum)).setSlot .L xhl (s.slot .L xhl - 2)
      .next { t.drawn 1 with
        f := { s.f with
          s := BitVec.msb (t.slot .L d)
          z := decide (t.slot .L d = 0)
          v := decide (sum < -2 ^ 31 ∨ sum > 2 ^ 31 - 1) } }

/-- MINC1, MINC2, MINC4 (R147 to R149), `imm` being `num - step`. DESIGN CHOICE outside
the stated domain (notes/assumptions/32.md), unsafe. -/
def moduloUp (step : Nat) (imm : BitVec 16) (v : BitVec 16) : BitVec 16 :=
  if v.toNat % (imm.toNat + step) = imm.toNat then v - imm else v + BitVec.ofNat 16 step

/-- MDEC1, MDEC2, MDEC4 (R150 to R152), `imm` being `num - step`. DESIGN CHOICE outside
the stated domain (notes/assumptions/32.md), unsafe. -/
def moduloDown (step : Nat) (imm : BitVec 16) (v : BitVec 16) : BitVec 16 :=
  if v.toNat % (imm.toNat + step) = 0 then v + imm else v - BitVec.ofNat 16 step

/-- `NEG r` (R137). -/
def execNegr (sz : Size) (r : RegOp) (s : State) : Out State := negate sz (s.regSlot sz r) s

/-- `MUL rr,#` (R142). -/
def execMulrrI (sz : Size) (r : RegOp) (imm : BitVec sz.bits) (s : State) : Out State :=
  multiplyImm false sz (s.regDouble sz r) imm s

/-- `MULS rr,#` (R143). -/
def execMulsrrI (sz : Size) (r : RegOp) (imm : BitVec sz.bits) (s : State) : Out State :=
  multiplyImm true sz (s.regDouble sz r) imm s

/-- `DIV rr,#` (R144). -/
def execDivrrI (sz : Size) (r : RegOp) (imm : BitVec sz.bits) (s : State) : Out State :=
  divideImm false sz (s.regDouble sz r) imm s

/-- `DIVS rr,#` (R145). -/
def execDivsrrI (sz : Size) (r : RegOp) (imm : BitVec sz.bits) (s : State) : Out State :=
  divideImm true sz (s.regDouble sz r) imm s

/-- `DAA r` (R140). -/
def execDaa (r : RegOp) (s : State) : Out State := adjustReg (s.regSlot .B r) s

/-- `EXTZ r` (R138). -/
def execExtz (sz : Size) (r : RegOp) (s : State) : Out State :=
  updateReg sz (s.regSlot sz r) (zeroUpper sz) s

/-- `EXTS r` (R139). -/
def execExts (sz : Size) (r : RegOp) (s : State) : Out State :=
  updateReg sz (s.regSlot sz r) (signUpper sz) s

/-- `PAA r` (R141). -/
def execPaa (sz : Size) (r : RegOp) (s : State) : Out State :=
  updateReg sz (s.regSlot sz r) makeEven s

/-- `MULA rr` (R146). -/
def execMula (r : RegOp) (s : State) : Out State := multiplyAdd (s.regSlot .L r) s

/-- `MINC1 #,r` (R147). -/
def execMinc1 (m : BitVec 16) (r : RegOp) (s : State) : Out State :=
  updateReg .W (s.regSlot .W r) (moduloUp 1 m) s

/-- `MINC2 #,r` (R148). -/
def execMinc2 (m : BitVec 16) (r : RegOp) (s : State) : Out State :=
  updateReg .W (s.regSlot .W r) (moduloUp 2 m) s

/-- `MINC4 #,r` (R149). -/
def execMinc4 (m : BitVec 16) (r : RegOp) (s : State) : Out State :=
  updateReg .W (s.regSlot .W r) (moduloUp 4 m) s

/-- `MDEC1 #,r` (R150). -/
def execMdec1 (m : BitVec 16) (r : RegOp) (s : State) : Out State :=
  updateReg .W (s.regSlot .W r) (moduloDown 1 m) s

/-- `MDEC2 #,r` (R151). -/
def execMdec2 (m : BitVec 16) (r : RegOp) (s : State) : Out State :=
  updateReg .W (s.regSlot .W r) (moduloDown 2 m) s

/-- `MDEC4 #,r` (R152). -/
def execMdec4 (m : BitVec 16) (r : RegOp) (s : State) : Out State :=
  updateReg .W (s.regSlot .W r) (moduloDown 4 m) s

/-- `MUL RR,r` (R142). -/
def execMulRr (sz : Size) (R : BitVec 3) (r : RegOp) (s : State) : Out State :=
  multiplyReg false sz (s.shortDouble sz R) (s.regSlot sz r) s

/-- `MULS RR,r` (R143). -/
def execMulsRr (sz : Size) (R : BitVec 3) (r : RegOp) (s : State) : Out State :=
  multiplyReg true sz (s.shortDouble sz R) (s.regSlot sz r) s

/-- `DIV RR,r` (R144). -/
def execDivRr (sz : Size) (R : BitVec 3) (r : RegOp) (s : State) : Out State :=
  divideReg false sz (s.shortDouble sz R) (s.regSlot sz r) s

/-- `DIVS RR,r` (R145). -/
def execDivsRr (sz : Size) (R : BitVec 3) (r : RegOp) (s : State) : Out State :=
  divideReg true sz (s.shortDouble sz R) (s.regSlot sz r) s

/-- `INC #3,r` (R135). -/
def execIncNr (sz : Size) (n : BitVec 3) (r : RegOp) (s : State) : Out State :=
  countReg .add sz n (s.regSlot sz r) s

/-- `DEC #3,r` (R136). -/
def execDecNr (sz : Size) (n : BitVec 3) (r : RegOp) (s : State) : Out State :=
  countReg .sub sz n (s.regSlot sz r) s

/-- `ADD R,r` (R130). -/
def execAddRr (sz : Size) (R : BitVec 3) (r : RegOp) (s : State) : Out State :=
  aluReg .add sz (s.shortSlot sz R) (s.regSlot sz r) s

/-- `ADC R,r` (R131). -/
def execAdcRr (sz : Size) (R : BitVec 3) (r : RegOp) (s : State) : Out State :=
  aluReg .adc sz (s.shortSlot sz R) (s.regSlot sz r) s

/-- `SUB R,r` (R132). -/
def execSubRr (sz : Size) (R : BitVec 3) (r : RegOp) (s : State) : Out State :=
  aluReg .sub sz (s.shortSlot sz R) (s.regSlot sz r) s

/-- `SBC R,r` (R133). -/
def execSbcRr (sz : Size) (R : BitVec 3) (r : RegOp) (s : State) : Out State :=
  aluReg .sbc sz (s.shortSlot sz R) (s.regSlot sz r) s

/-- `ADD r,#` (R130). -/
def execAddrI (sz : Size) (r : RegOp) (imm : BitVec sz.bits) (s : State) : Out State :=
  aluImm .add sz (s.regSlot sz r) imm s

/-- `ADC r,#` (R131). -/
def execAdcrI (sz : Size) (r : RegOp) (imm : BitVec sz.bits) (s : State) : Out State :=
  aluImm .adc sz (s.regSlot sz r) imm s

/-- `SUB r,#` (R132). -/
def execSubrI (sz : Size) (r : RegOp) (imm : BitVec sz.bits) (s : State) : Out State :=
  aluImm .sub sz (s.regSlot sz r) imm s

/-- `SBC r,#` (R133). -/
def execSbcrI (sz : Size) (r : RegOp) (imm : BitVec sz.bits) (s : State) : Out State :=
  aluImm .sbc sz (s.regSlot sz r) imm s

/-- `CP r,#` (R134). -/
def execCprI (sz : Size) (r : RegOp) (imm : BitVec sz.bits) (s : State) : Out State :=
  aluImm .cp sz (s.regSlot sz r) imm s

/-- `CP r,#3` (R134). -/
def execCprN (sz : Size) (r : RegOp) (n : BitVec 3) (s : State) : Out State :=
  aluImm .cp sz (s.regSlot sz r) (n.setWidth _) s

/-- `CP R,r` (R134). -/
def execCpRr (sz : Size) (R : BitVec 3) (r : RegOp) (s : State) : Out State :=
  aluReg .cp sz (s.shortSlot sz R) (s.regSlot sz r) s

/-- `ADD (mem),#` (R130). -/
def execAddmI (sz : Size) (m : MemOp) (imm : BitVec sz.bits) (s : State) : Out State :=
  aluMemImm .add sz m imm s

/-- `ADC (mem),#` (R131). -/
def execAdcmI (sz : Size) (m : MemOp) (imm : BitVec sz.bits) (s : State) : Out State :=
  aluMemImm .adc sz m imm s

/-- `SUB (mem),#` (R132). -/
def execSubmI (sz : Size) (m : MemOp) (imm : BitVec sz.bits) (s : State) : Out State :=
  aluMemImm .sub sz m imm s

/-- `SBC (mem),#` (R133). -/
def execSbcmI (sz : Size) (m : MemOp) (imm : BitVec sz.bits) (s : State) : Out State :=
  aluMemImm .sbc sz m imm s

/-- `CP (mem),#` (R134). -/
def execCpmI (sz : Size) (m : MemOp) (imm : BitVec sz.bits) (s : State) : Out State :=
  aluMemImm .cp sz m imm s

/-- `MUL RR,(mem)` (R142). -/
def execMulRm (sz : Size) (R : BitVec 3) (m : MemOp) (s : State) : Out State :=
  multiplyMem false sz (s.shortDouble sz R) m s

/-- `MULS RR,(mem)` (R143). -/
def execMulsRm (sz : Size) (R : BitVec 3) (m : MemOp) (s : State) : Out State :=
  multiplyMem true sz (s.shortDouble sz R) m s

/-- `DIV RR,(mem)` (R144). -/
def execDivRm (sz : Size) (R : BitVec 3) (m : MemOp) (s : State) : Out State :=
  divideMem false sz (s.shortDouble sz R) m s

/-- `DIVS RR,(mem)` (R145). -/
def execDivsRm (sz : Size) (R : BitVec 3) (m : MemOp) (s : State) : Out State :=
  divideMem true sz (s.shortDouble sz R) m s

/-- `INC #3,(mem) / INCW` (R135). -/
def execIncNm (sz : Size) (n : BitVec 3) (m : MemOp) (s : State) : Out State :=
  countMem .add sz n m s

/-- `DEC #3,(mem) / DECW` (R136). -/
def execDecNm (sz : Size) (n : BitVec 3) (m : MemOp) (s : State) : Out State :=
  countMem .sub sz n m s

/-- `ADD R,(mem)` (R130). -/
def execAddRm (sz : Size) (R : BitVec 3) (m : MemOp) (s : State) : Out State :=
  aluRegMem .add sz (s.shortSlot sz R) m s

/-- `ADD (mem),R` (R130). -/
def execAddmR (sz : Size) (m : MemOp) (R : BitVec 3) (s : State) : Out State :=
  aluMemReg .add sz m (s.shortSlot sz R) s

/-- `ADC R,(mem)` (R131). -/
def execAdcRm (sz : Size) (R : BitVec 3) (m : MemOp) (s : State) : Out State :=
  aluRegMem .adc sz (s.shortSlot sz R) m s

/-- `ADC (mem),R` (R131). -/
def execAdcmR (sz : Size) (m : MemOp) (R : BitVec 3) (s : State) : Out State :=
  aluMemReg .adc sz m (s.shortSlot sz R) s

/-- `SUB R,(mem)` (R132). -/
def execSubRm (sz : Size) (R : BitVec 3) (m : MemOp) (s : State) : Out State :=
  aluRegMem .sub sz (s.shortSlot sz R) m s

/-- `SUB (mem),R` (R132). -/
def execSubmR (sz : Size) (m : MemOp) (R : BitVec 3) (s : State) : Out State :=
  aluMemReg .sub sz m (s.shortSlot sz R) s

/-- `SBC R,(mem)` (R133). -/
def execSbcRm (sz : Size) (R : BitVec 3) (m : MemOp) (s : State) : Out State :=
  aluRegMem .sbc sz (s.shortSlot sz R) m s

/-- `SBC (mem),R` (R133). -/
def execSbcmR (sz : Size) (m : MemOp) (R : BitVec 3) (s : State) : Out State :=
  aluMemReg .sbc sz m (s.shortSlot sz R) s

/-- `CP R,(mem)` (R134). -/
def execCpRm (sz : Size) (R : BitVec 3) (m : MemOp) (s : State) : Out State :=
  aluRegMem .cp sz (s.shortSlot sz R) m s

/-- `CP (mem),R` (R134). -/
def execCpmR (sz : Size) (m : MemOp) (R : BitVec 3) (s : State) : Out State :=
  aluMemReg .cp sz m (s.shortSlot sz R) s

end Sys2Proof.Machine
end

