-- ==== Sys2Proof/Machine/Bit.lean ====
section
/-!
DEFINITION. The meanings of the bit operations (46_bit.md R170 to R187).
In a meaning the pc is already past the instruction (00_scope.md R8).
-/

namespace Sys2Proof.Machine

/-- The bit number in A: its low four bits (R186). -/
def bitNumber (s : State) : Nat := (s.regA.setWidth 4).toNat

/-- The operations that read a bit into the carry flag (R170, R172 to R174). -/
inductive CarryOp where
  | andcf
  | orcf
  | xorcf
  | ldcf
  deriving DecidableEq, Repr

/-- The new carry. -/
def CarryOp.carry (op : CarryOp) (c b : Bool) : Bool :=
  match op with
  | .andcf => c && b
  | .orcf => c || b
  | .xorcf => c != b
  | .ldcf => b

/-- C from bit `num` of the operand; a bit the operand does not have leaves C free
(93_implementation_defined.md U7). -/
def State.carryFrom {w : Nat} (s : State) (op : CarryOp) (num : Nat) (v : BitVec w) : State :=
  { s with
    f := { s.f with c := if num < w then op.carry s.f.c (v.getLsbD num) else s.freeBit 0 }
    draws := s.draws + 1 }

/-- The forms on a register. -/
def carryReg (op : CarryOp) (sz : Size) (num : Nat) (src : Out Slot) (s : State) : Out State :=
  andThen src fun a => .next (s.carryFrom op num (s.slot sz a))

/-- The forms on a memory byte. -/
def carryMem (op : CarryOp) (num : State → Nat) (m : MemOp) (s : State) : Out State :=
  s.withMem m fun e t => .next ((t.carryFrom op (num t) (t.byte e.addr)).postStep e)

/-- `v` with bit `num` made `b`; a bit `v` does not have changes nothing (R171). -/
def putBit {w : Nat} (num : Nat) (b : Bool) (v : BitVec w) : BitVec w :=
  if b then v ||| 1#w <<< num else v &&& ~~~(1#w <<< num)

/-- `v` with bit `num` inverted (R182). -/
def flipBit {w : Nat} (num : Nat) (v : BitVec w) : BitVec w := v ^^^ 1#w <<< num

/-- A read and a write of the byte at the effective address. The byte is written also where
STCF A,(mem) with a bit number of 8 to 15 leaves it unchanged, which R171 does not say;
under a memory map of RAM and ROM no byte differs for it. DESIGN CHOICE
(notes/assumptions/42.md), safe. -/
def updateMem (m : MemOp) (g : State → Byte → Byte) (s : State) : Out State :=
  s.withMem m fun e t => .next ((t.setByte e.addr (g t (t.byte e.addr))).postStep e)

/-- The flags of BIT and TSET (R179, R183): S and V are free (93_implementation_defined.md
U5). -/
def State.testFlags (s : State) (bit : Bool) : State :=
  { s with
    f := { s.f with s := s.freeBit 0, z := !bit, h := true, v := s.freeBit 1, n := false }
    draws := s.draws + 2 }

def testReg (sz : Size) (num : Nat) (src : Out Slot) (s : State) : Out State :=
  andThen src fun a => .next (s.testFlags ((s.slot sz a).getLsbD num))

def testMem (num : Nat) (m : MemOp) (s : State) : Out State :=
  s.withMem m fun e t => .next ((t.testFlags ((t.byte e.addr).getLsbD num)).postStep e)

def testSetReg (sz : Size) (num : Nat) (dst : Out Slot) (s : State) : Out State :=
  andThen dst fun d =>
    .next ((s.testFlags ((s.slot sz d).getLsbD num)).setSlot sz d
      (putBit num true (s.slot sz d)))

def testSetMem (num : Nat) (m : MemOp) (s : State) : Out State :=
  s.withMem m fun e t =>
    .next (((t.testFlags ((t.byte e.addr).getLsbD num)).setByte e.addr
      (putBit num true (t.byte e.addr))).postStep e)

/-- CCF and ZCF (R177, R178): H is free (93_implementation_defined.md U6). -/
def setCarryFreeH (c : Bool) (s : State) : State :=
  { s with
    f := { s.f with c := c, h := s.freeBit 0, n := false }
    draws := s.draws + 1 }

/-- BS1F and BS1B (R184, R185): for a source of 0 A is free (93_implementation_defined.md
U8). -/
def bitSearch (find : BitVec 16 → Option Nat) (src : Out Slot) (s : State) : Out State :=
  andThen src fun a =>
    match find (s.slot .W a) with
    | some i => .next ({ s with f := { s.f with v := false } }.setRegA (BitVec.ofNat 8 i))
    | none => .next (({ s with f := { s.f with v := true } }.setRegA (s.free 8 0)).drawn 1)

/-- `RCF` (R175). -/
def execRcf (s : State) : Out State :=
  .next { s with f := { s.f with c := false, h := false, n := false } }

/-- `SCF` (R176). -/
def execScf (s : State) : Out State :=
  .next { s with f := { s.f with c := true, h := false, n := false } }

/-- `CCF` (R177). -/
def execCcf (s : State) : Out State := .next (setCarryFreeH (!s.f.c) s)

/-- `ZCF` (R178). -/
def execZcf (s : State) : Out State := .next (setCarryFreeH (!s.f.z) s)

/-- `BS1F A,r` (R184). -/
def execBs1f (r : RegOp) (s : State) : Out State :=
  bitSearch (fun v => lowestOne v 0 16) (s.regSlot .W r) s

/-- `BS1B A,r` (R185). -/
def execBs1b (r : RegOp) (s : State) : Out State :=
  bitSearch (fun v => highestOne v 16) (s.regSlot .W r) s

/-- `ANDCF #4,r` (R172). -/
def execAndcfNr (sz : Size) (n : BitVec 4) (r : RegOp) (s : State) : Out State :=
  carryReg .andcf sz n.toNat (s.regSlot sz r) s

/-- `ORCF #4,r` (R173). -/
def execOrcfNr (sz : Size) (n : BitVec 4) (r : RegOp) (s : State) : Out State :=
  carryReg .orcf sz n.toNat (s.regSlot sz r) s

/-- `XORCF #4,r` (R174). -/
def execXorcfNr (sz : Size) (n : BitVec 4) (r : RegOp) (s : State) : Out State :=
  carryReg .xorcf sz n.toNat (s.regSlot sz r) s

/-- `LDCF #4,r` (R170). -/
def execLdcfNr (sz : Size) (n : BitVec 4) (r : RegOp) (s : State) : Out State :=
  carryReg .ldcf sz n.toNat (s.regSlot sz r) s

/-- `STCF #4,r` (R171). -/
def execStcfNr (sz : Size) (n : BitVec 4) (r : RegOp) (s : State) : Out State :=
  updateReg sz (s.regSlot sz r) (putBit n.toNat s.f.c) s

/-- `ANDCF A,r` (R172). -/
def execAndcfAr (sz : Size) (r : RegOp) (s : State) : Out State :=
  carryReg .andcf sz (bitNumber s) (s.regSlot sz r) s

/-- `ORCF A,r` (R173). -/
def execOrcfAr (sz : Size) (r : RegOp) (s : State) : Out State :=
  carryReg .orcf sz (bitNumber s) (s.regSlot sz r) s

/-- `XORCF A,r` (R174). -/
def execXorcfAr (sz : Size) (r : RegOp) (s : State) : Out State :=
  carryReg .xorcf sz (bitNumber s) (s.regSlot sz r) s

/-- `LDCF A,r` (R170). -/
def execLdcfAr (sz : Size) (r : RegOp) (s : State) : Out State :=
  carryReg .ldcf sz (bitNumber s) (s.regSlot sz r) s

/-- `STCF A,r` (R171). -/
def execStcfAr (sz : Size) (r : RegOp) (s : State) : Out State :=
  updateReg sz (s.regSlot sz r) (putBit (bitNumber s) s.f.c) s

/-- `RES #4,r` (R180). -/
def execResNr (sz : Size) (n : BitVec 4) (r : RegOp) (s : State) : Out State :=
  updateReg sz (s.regSlot sz r) (putBit n.toNat false) s

/-- `SET #4,r` (R181). -/
def execSetNr (sz : Size) (n : BitVec 4) (r : RegOp) (s : State) : Out State :=
  updateReg sz (s.regSlot sz r) (putBit n.toNat true) s

/-- `CHG #4,r` (R182). -/
def execChgNr (sz : Size) (n : BitVec 4) (r : RegOp) (s : State) : Out State :=
  updateReg sz (s.regSlot sz r) (flipBit n.toNat) s

/-- `BIT #4,r` (R179). -/
def execBitNr (sz : Size) (n : BitVec 4) (r : RegOp) (s : State) : Out State :=
  testReg sz n.toNat (s.regSlot sz r) s

/-- `TSET #4,r` (R183). -/
def execTsetNr (sz : Size) (n : BitVec 4) (r : RegOp) (s : State) : Out State :=
  testSetReg sz n.toNat (s.regSlot sz r) s

/-- `ANDCF A,(mem)` (R172). -/
def execAndcfAm (m : MemOp) (s : State) : Out State := carryMem .andcf bitNumber m s

/-- `ORCF A,(mem)` (R173). -/
def execOrcfAm (m : MemOp) (s : State) : Out State := carryMem .orcf bitNumber m s

/-- `XORCF A,(mem)` (R174). -/
def execXorcfAm (m : MemOp) (s : State) : Out State := carryMem .xorcf bitNumber m s

/-- `LDCF A,(mem)` (R170). -/
def execLdcfAm (m : MemOp) (s : State) : Out State := carryMem .ldcf bitNumber m s

/-- `STCF A,(mem)` (R171). -/
def execStcfAm (m : MemOp) (s : State) : Out State :=
  updateMem m (fun t v => putBit (bitNumber t) t.f.c v) s

/-- `ANDCF #3,(mem)` (R172). -/
def execAndcfNm (n : BitVec 3) (m : MemOp) (s : State) : Out State :=
  carryMem .andcf (fun _ => n.toNat) m s

/-- `ORCF #3,(mem)` (R173). -/
def execOrcfNm (n : BitVec 3) (m : MemOp) (s : State) : Out State :=
  carryMem .orcf (fun _ => n.toNat) m s

/-- `XORCF #3,(mem)` (R174). -/
def execXorcfNm (n : BitVec 3) (m : MemOp) (s : State) : Out State :=
  carryMem .xorcf (fun _ => n.toNat) m s

/-- `LDCF #3,(mem)` (R170). -/
def execLdcfNm (n : BitVec 3) (m : MemOp) (s : State) : Out State :=
  carryMem .ldcf (fun _ => n.toNat) m s

/-- `STCF #3,(mem)` (R171). -/
def execStcfNm (n : BitVec 3) (m : MemOp) (s : State) : Out State :=
  updateMem m (fun t v => putBit n.toNat t.f.c v) s

/-- `TSET #3,(mem)` (R183). -/
def execTsetNm (n : BitVec 3) (m : MemOp) (s : State) : Out State := testSetMem n.toNat m s

/-- `RES #3,(mem)` (R180). -/
def execResNm (n : BitVec 3) (m : MemOp) (s : State) : Out State :=
  updateMem m (fun _ v => putBit n.toNat false v) s

/-- `SET #3,(mem)` (R181). -/
def execSetNm (n : BitVec 3) (m : MemOp) (s : State) : Out State :=
  updateMem m (fun _ v => putBit n.toNat true v) s

/-- `CHG #3,(mem)` (R182). -/
def execChgNm (n : BitVec 3) (m : MemOp) (s : State) : Out State :=
  updateMem m (fun _ v => flipBit n.toNat v) s

/-- `BIT #3,(mem)` (R179). -/
def execBitNm (n : BitVec 3) (m : MemOp) (s : State) : Out State := testMem n.toNat m s

end Sys2Proof.Machine
end

