-- ==== Sys2Proof/Machine/Block.lean ====
section
/-!
DEFINITION. The meanings of the block instructions (43_block.md R115 to R122).
In a meaning the pc is already past the instruction (00_scope.md R8).
-/

namespace Sys2Proof.Machine

/-- The destination pointer of a pair (R115); XDE is DE in minimum mode. -/
def State.blockDst (s : State) : BlockPair → AddrReg
  | .deHl => s.shortAddrReg 2
  | .ixIy => s.shortAddrReg 4

/-- The source pointer of a pair (R115); XHL is HL in minimum mode. -/
def State.blockSrc (s : State) : BlockPair → AddrReg
  | .deHl => s.shortAddrReg 3
  | .ixIy => s.shortAddrReg 5

/-- `BC <- BC - 1`, modulo 2^16. -/
def State.countDown (s : State) : State := s.setRegBC (s.regBC - 1)

/-- One element of a block load: transfer, both pointers by `d`, BC down by 1 (R115). -/
def State.blockElement (s : State) (sz : Size) (p : BlockPair) (d : Word32) : State :=
  (((s.memWrite sz (s.addrValue (s.blockDst p)) (s.memRead sz (s.addrValue (s.blockSrc p)))
    ).stepAddrReg (s.blockDst p) d).stepAddrReg (s.blockSrc p) d).countDown

/-- H 0, N 0, and V 1 while BC is not 0 (R115 to R118). -/
def State.blockFlags (s : State) : State :=
  { s with f := { s.f with h := false, n := false, v := decide (s.regBC ≠ 0) } }

/-- The instruction goes on with its next element: the pc is back at the two-byte instruction
itself, so that a request accepted at the boundary that follows every element saves its
address (R116, 92_eei_decisions.md D11, D12). Its codes are not fetched again. DESIGN CHOICE
(notes/assumptions/15.md), unsafe. -/
def State.again (s : State) (i : Repeating) : State :=
  { s.jump (s.pc - 2) with repeating := some i }

/-- LDI and LDD (R115, R117). -/
def blockLoad (sz : Size) (p : BlockPair) (d : Word32) (s : State) : State :=
  (s.blockElement sz p d).blockFlags

/-- One element of LDIR and LDDR (R116, R118); the flags are written when BC is 0. -/
def blockLoadRepeat (i : Repeating) (sz : Size) (p : BlockPair) (d : Word32) (s : State) :
    State :=
  if (s.blockElement sz p d).regBC = 0 then (s.blockElement sz p d).blockFlags
  else (s.blockElement sz p d).again i

/-- The comparand: A or WA of the current bank (R119). -/
def State.comparand (s : State) (sz : Size) : BitVec sz.bits := s.slot sz (s.curSlot .xwa)

/-- The flags of the comparison A or WA with the element at the pointer (R119). -/
def State.elementFlags (s : State) (sz : Size) (R : BitVec 3) : Flags :=
  (subFlags (s.comparand sz) (s.memRead sz (s.addrValue (s.shortAddrReg R))) false false
    false).2

/-- The pointer by `d`, then BC down by 1 (R119). -/
def State.compareElement (s : State) (R : BitVec 3) (d : Word32) : State :=
  (s.stepAddrReg (s.shortAddrReg R) d).countDown

/-- S, Z, H from the comparison, V from BC, N 1, C kept (R119). -/
def State.compareFlags (s : State) (fl : Flags) : State :=
  { s with f := { fl with v := decide (s.regBC ≠ 0), n := true, c := s.f.c } }

/-- CPI and CPD (R119, R121). -/
def blockCompare (sz : Size) (R : BitVec 3) (d : Word32) (s : State) : State :=
  (s.compareElement R d).compareFlags (s.elementFlags sz R)

/-- One element of CPIR and CPDR (R120, R122); the flags are written when it ends. -/
def blockCompareRepeat (i : Repeating) (sz : Size) (R : BitVec 3) (d : Word32) (s : State) :
    State :=
  if (s.elementFlags sz R).z || decide ((s.compareElement R d).regBC = 0) then
    (s.compareElement R d).compareFlags (s.elementFlags sz R)
  else (s.compareElement R d).again i

/-- `LDI / LDIW` (R115). -/
def execLdi (sz : Size) (p : BlockPair) (s : State) : Out State :=
  .next (blockLoad sz p (byteCount sz) s)

/-- `LDIR / LDIRW` (R116). -/
def execLdir (sz : Size) (p : BlockPair) (s : State) : Out State :=
  .next (blockLoadRepeat (.ldir sz p) sz p (byteCount sz) s)

/-- `LDD / LDDW` (R117). -/
def execLdd (sz : Size) (p : BlockPair) (s : State) : Out State :=
  .next (blockLoad sz p (- byteCount sz) s)

/-- `LDDR / LDDRW` (R118). -/
def execLddr (sz : Size) (p : BlockPair) (s : State) : Out State :=
  .next (blockLoadRepeat (.lddr sz p) sz p (- byteCount sz) s)

/-- `CPI [A/WA,(R)]` (R119). -/
def execCpi (sz : Size) (R : BitVec 3) (s : State) : Out State :=
  .next (blockCompare sz R (byteCount sz) s)

/-- `CPIR [A/WA,(R)]` (R120). -/
def execCpir (sz : Size) (R : BitVec 3) (s : State) : Out State :=
  .next (blockCompareRepeat (.cpir sz R) sz R (byteCount sz) s)

/-- `CPD [A/WA,(R)]` (R121). -/
def execCpd (sz : Size) (R : BitVec 3) (s : State) : Out State :=
  .next (blockCompare sz R (- byteCount sz) s)

/-- `CPDR [A/WA,(R)]` (R122). -/
def execCpdr (sz : Size) (R : BitVec 3) (s : State) : Out State :=
  .next (blockCompareRepeat (.cpdr sz R) sz R (- byteCount sz) s)

end Sys2Proof.Machine
end

