-- ==== Sys2Proof/Machine/Control.lean ====
section
/-!
DEFINITION. The meanings of the special operations and CPU control (47_control.md R190 to R205).
In a meaning the pc is already past the instruction (00_scope.md R8).
-/

namespace Sys2Proof.Machine

/-- `LDC cr,r` (R198). -/
def loadControl (sz : Size) (cr : BitVec 8) (src : Out Slot) (s : State) : Out State :=
  andThen (s.crOf sz cr) fun c =>
  andThen src fun a => .next (s.setCreg c ((s.slot sz a).setWidth 32))

/-- `LDC r,cr` (R198). -/
def storeControl (sz : Size) (dst : Out Slot) (cr : BitVec 8) (s : State) : Out State :=
  andThen (s.crOf sz cr) fun c =>
  andThen dst fun d => .next (s.setSlot sz d ((s.creg c).setWidth _))

/-- LINK (R200): PUSH r, LD r,XSP, ADD XSP,d16. For XSP itself the push is as open as
PUSH XSP (notes/assumptions/29.md). -/
def linkFrame (dst : Out Slot) (d : BitVec 16) (s : State) : Out State :=
  andThen dst fun a =>
    let t := s.pushSlot .L a
    let u := t.setSlot .L a t.xsp
    .next { u with xsp := u.xsp + d.signExtend 32 }

/-- UNLK (R201): LD XSP,r, POP r. For XSP itself the pop is as open as POP XSP
(notes/assumptions/29.md). -/
def unlinkFrame (dst : Out Slot) (s : State) : Out State :=
  andThen dst fun a => .next ({ s with xsp := s.slot .L a }.popSlot .L a)

/-- `NOP` (R190). -/
def execNop (s : State) : Out State := .next s

/-- `PUSH SR` (R194). -/
def execPushSR (s : State) : Out State := .next (s.push .W s.sr)

/-- `POP SR` (R195). -/
def execPopSR (s : State) : Out State := (s.popped .W).setSr (s.top .W)

/-- `MIN` (R191). -/
def execMin (s : State) : Out State := s.setMax false

/-- `HALT` (R197). -/
def execHalt (s : State) : Out State := .next { s with halted := true }

/-- `DI` (R193). -/
def execDi (s : State) : Out State := .next { s with iff := 7 }

/-- `EI #3` (R192). -/
def execEi (n : BitVec 3) (s : State) : Out State := .next { s with iff := n }

/-- `INCF` (R203). -/
def execIncf (s : State) : Out State := .next (s.setRfp (s.rfp + 1))

/-- `DECF` (R204). -/
def execDecf (s : State) : Out State := .next (s.setRfp (s.rfp - 1))

/-- `LDF #3` (R202). -/
def execLdf (n : BitVec 3) (s : State) : Out State := .next (s.setRfp n)

/-- `LDX (#8),#8` (R199). -/
def execLdx (a : BitVec 8) (v : BitVec 8) (s : State) : Out State :=
  if s.product.ldxAvailable then .next (s.memWrite .B (a.setWidth 32) v)
  else .refused .ldxNotAvailable

/-- `SWI #3` (R196). -/
def execSwi (n : BitVec 3) (s : State) : Out State :=
  .next (s.saveSrThenPc.enterException (n.setWidth 24))

/-- `LINK r,d16` (R200). -/
def execLink (r : RegOp) (d : BitVec 16) (s : State) : Out State := linkFrame (s.regSlot .L r) d s

/-- `UNLK r` (R201). -/
def execUnlk (r : RegOp) (s : State) : Out State := unlinkFrame (s.regSlot .L r) s

/-- `LDC cr,r` (R198). -/
def execLdcCr (sz : Size) (cr : BitVec 8) (r : RegOp) (s : State) : Out State :=
  loadControl sz cr (s.regSlot sz r) s

/-- `LDC r,cr` (R198). -/
def execLdcR (sz : Size) (r : RegOp) (cr : BitVec 8) (s : State) : Out State :=
  storeControl sz (s.regSlot sz r) cr s

/-- `SCC cc,r` (R205). -/
def execScc (sz : Size) (cc : Cond) (r : RegOp) (s : State) : Out State :=
  loadReg sz (s.regSlot sz r) ((BitVec.ofBool (s.f.holds cc)).setWidth _) s

end Sys2Proof.Machine
end

