-- ==== Sys2Proof/Machine/Exchange.lean ====
section
/-!
DEFINITION. The meanings of the exchange instructions (42_exchange.md R110, R111).
In a meaning the pc is already past the instruction (00_scope.md R8).
-/

namespace Sys2Proof.Machine

/-- `EX R,r`: both are read before either is written. -/
def exchangeRegs (sz : Size) (dst src : Out Slot) (s : State) : Out State :=
  andThen dst fun d => andThen src fun a =>
    .next ((s.setSlot sz d (s.slot sz a)).setSlot sz a (s.slot sz d))

/-- `EX (mem),R`. -/
def exchangeMem (sz : Size) (m : MemOp) (src : Out Slot) (s : State) : Out State :=
  andThen src fun a =>
  s.withMem m fun e t =>
    .next ((t.memWrite sz e.addr (t.slot sz a)).setSlotAndStep e sz a (t.memRead sz e.addr))

/-- `EX F,F'` (R110). -/
def execExFF (s : State) : Out State := .next { s with f := s.fAlt, fAlt := s.f }

/-- `MIRR r` (R111). -/
def execMirr (r : RegOp) (s : State) : Out State := updateReg .W (s.regSlot .W r) mirror s

/-- `EX R,r` (R110). -/
def execExRr (sz : Size) (R : BitVec 3) (r : RegOp) (s : State) : Out State :=
  exchangeRegs sz (s.shortSlot sz R) (s.regSlot sz r) s

/-- `EX (mem),R` (R110). -/
def execExmR (sz : Size) (m : MemOp) (R : BitVec 3) (s : State) : Out State :=
  exchangeMem sz m (s.shortSlot sz R) s

end Sys2Proof.Machine
end

