-- ==== Sys2Proof/Machine/Jump.lean ====
section
/-!
DEFINITION. The meanings of jump, call and return (49_jump.md R230 to R238).
In a meaning the pc is already past the instruction (00_scope.md R8).
-/

namespace Sys2Proof.Machine

/-- `JP cc,mem` (R230): memory at the address is not read. -/
def jumpMem (cc : Cond) (m : MemOp) (s : State) : Out State :=
  andThen (s.addressEff m) fun e =>
    .next (if s.f.holds cc then s.addressOnly e fun t => t.jump e.addr else s)

/-- `CALL cc,mem` (R233): the address is computed before XSP is decremented. -/
def callMem (cc : Cond) (m : MemOp) (s : State) : Out State :=
  andThen (s.addressEff m) fun e =>
    .next (if s.f.holds cc then s.addressOnly e fun t => t.pushPc.jump e.addr else s)

/-- DJNZ (R235): the pc is past the instruction, whatever its length. -/
def decrementJump (sz : Size) (dst : Out Slot) (d : BitVec 8) (s : State) : Out State :=
  andThen dst fun a =>
    let v := s.slot sz a - 1
    let t := s.setSlot sz a v
    .next (if v = 0 then t else t.jump (t.pc + d.signExtend 32))

/-- `RETI` (R238). -/
def execReti (s : State) : Out State := s.returnFromException

/-- `RET` (R236). -/
def execRet (s : State) : Out State := .next s.popPc

/-- `RETD d16` (R237). -/
def execRetd (d : BitVec 16) (s : State) : Out State :=
  .next { s.popPc with xsp := s.popPc.xsp + d.signExtend 32 }

/-- `JP #16` (R230). -/
def execJp16 (a : BitVec 16) (s : State) : Out State := .next (s.jump (a.setWidth 32))

/-- `JP #24` (R230). -/
def execJp24 (a : BitVec 24) (s : State) : Out State := .next (s.jump (a.setWidth 32))

/-- `CALL #16` (R233). -/
def execCall16 (a : BitVec 16) (s : State) : Out State := .next (s.pushPc.jump (a.setWidth 32))

/-- `CALL #24` (R233). -/
def execCall24 (a : BitVec 24) (s : State) : Out State := .next (s.pushPc.jump (a.setWidth 32))

/-- `CALR $+3+d16` (R234). -/
def execCalr (d : BitVec 16) (s : State) : Out State :=
  .next (s.pushPc.jump (s.pc + d.signExtend 32))

/-- `JR cc,$+2+d8` (R231). -/
def execJr (cc : Cond) (d : BitVec 8) (s : State) : Out State :=
  .next (if s.f.holds cc then s.jump (s.pc + d.signExtend 32) else s)

/-- `JRL cc,$+3+d16` (R232). -/
def execJrl (cc : Cond) (d : BitVec 16) (s : State) : Out State :=
  .next (if s.f.holds cc then s.jump (s.pc + d.signExtend 32) else s)

/-- `DJNZ r,$+3+d8` (R235). -/
def execDjnz (sz : Size) (r : RegOp) (d : BitVec 8) (s : State) : Out State :=
  decrementJump sz (s.regSlot sz r) d s

/-- `JP cc,mem` (R230). -/
def execJpm (cc : Cond) (m : MemOp) (s : State) : Out State := jumpMem cc m s

/-- `CALL cc,mem` (R233). -/
def execCallm (cc : Cond) (m : MemOp) (s : State) : Out State := callMem cc m s

/-- `RET cc` (R236). -/
def execRetcc (cc : Cond) (s : State) : Out State := .next (if s.f.holds cc then s.popPc else s)

end Sys2Proof.Machine
end

