-- ==== Sys2Proof/Machine/Logical.lean ====
section
/-!
DEFINITION. The meanings of the logical instructions (45_logical.md R160 to R163).
In a meaning the pc is already past the instruction (00_scope.md R8).
-/

namespace Sys2Proof.Machine

/-- CPL (R163): all bits inverted, H and N set. -/
def complement (sz : Size) (dst : Out Slot) (s : State) : Out State :=
  andThen dst fun d =>
    .next { s.setSlot sz d (~~~ s.slot sz d) with f := { s.f with h := true, n := true } }

/-- `CPL r` (R163). -/
def execCplr (sz : Size) (r : RegOp) (s : State) : Out State := complement sz (s.regSlot sz r) s

/-- `AND R,r` (R160). -/
def execAndRr (sz : Size) (R : BitVec 3) (r : RegOp) (s : State) : Out State :=
  aluReg .and sz (s.shortSlot sz R) (s.regSlot sz r) s

/-- `AND r,#` (R160). -/
def execAndrI (sz : Size) (r : RegOp) (imm : BitVec sz.bits) (s : State) : Out State :=
  aluImm .and sz (s.regSlot sz r) imm s

/-- `XOR r,#` (R162). -/
def execXorrI (sz : Size) (r : RegOp) (imm : BitVec sz.bits) (s : State) : Out State :=
  aluImm .xor sz (s.regSlot sz r) imm s

/-- `OR r,#` (R161). -/
def execOrrI (sz : Size) (r : RegOp) (imm : BitVec sz.bits) (s : State) : Out State :=
  aluImm .or sz (s.regSlot sz r) imm s

/-- `XOR R,r` (R162). -/
def execXorRr (sz : Size) (R : BitVec 3) (r : RegOp) (s : State) : Out State :=
  aluReg .xor sz (s.shortSlot sz R) (s.regSlot sz r) s

/-- `OR R,r` (R161). -/
def execOrRr (sz : Size) (R : BitVec 3) (r : RegOp) (s : State) : Out State :=
  aluReg .or sz (s.shortSlot sz R) (s.regSlot sz r) s

/-- `AND (mem),#` (R160). -/
def execAndmI (sz : Size) (m : MemOp) (imm : BitVec sz.bits) (s : State) : Out State :=
  aluMemImm .and sz m imm s

/-- `XOR (mem),#` (R162). -/
def execXormI (sz : Size) (m : MemOp) (imm : BitVec sz.bits) (s : State) : Out State :=
  aluMemImm .xor sz m imm s

/-- `OR (mem),#` (R161). -/
def execOrmI (sz : Size) (m : MemOp) (imm : BitVec sz.bits) (s : State) : Out State :=
  aluMemImm .or sz m imm s

/-- `AND R,(mem)` (R160). -/
def execAndRm (sz : Size) (R : BitVec 3) (m : MemOp) (s : State) : Out State :=
  aluRegMem .and sz (s.shortSlot sz R) m s

/-- `AND (mem),R` (R160). -/
def execAndmR (sz : Size) (m : MemOp) (R : BitVec 3) (s : State) : Out State :=
  aluMemReg .and sz m (s.shortSlot sz R) s

/-- `XOR R,(mem)` (R162). -/
def execXorRm (sz : Size) (R : BitVec 3) (m : MemOp) (s : State) : Out State :=
  aluRegMem .xor sz (s.shortSlot sz R) m s

/-- `XOR (mem),R` (R162). -/
def execXormR (sz : Size) (m : MemOp) (R : BitVec 3) (s : State) : Out State :=
  aluMemReg .xor sz m (s.shortSlot sz R) s

/-- `OR R,(mem)` (R161). -/
def execOrRm (sz : Size) (R : BitVec 3) (m : MemOp) (s : State) : Out State :=
  aluRegMem .or sz (s.shortSlot sz R) m s

/-- `OR (mem),R` (R161). -/
def execOrmR (sz : Size) (m : MemOp) (R : BitVec 3) (s : State) : Out State :=
  aluMemReg .or sz m (s.shortSlot sz R) s

end Sys2Proof.Machine
end

