-- ==== Sys2Proof/Machine/Shift.lean ====
section
/-!
DEFINITION. The meanings of the rotate and shift instructions (48_rotate_shift.md R208 to R219).
In a meaning the pc is already past the instruction (00_scope.md R8).
-/

namespace Sys2Proof.Machine

/-- The result and the flags; the first coming draw is the undefined V of a 32-bit operand. -/
def State.shiftResult (s : State) (op : ShiftOp) (n : Nat) (sz : Size) (v : BitVec sz.bits) :
    BitVec sz.bits × Flags :=
  shift op n v s.f (decide (sz = .L)) (s.freeBit 0)

/-- The forms on a register; the 4-bit count `c` stands for 1 to 16 steps (R208). -/
def shiftReg (op : ShiftOp) (sz : Size) (c : BitVec 4) (dst : Out Slot) (s : State) :
    Out State :=
  andThen dst fun d =>
    let r := s.shiftResult op (shiftCount c) sz (s.slot sz d)
    .next ({ s.setSlot sz d r.1 with f := r.2 }.drawn 1)

/-- The form on memory: one step (R208). -/
def shiftMem (op : ShiftOp) (sz : Size) (m : MemOp) (s : State) : Out State :=
  s.withMem m fun e t =>
    let r := t.shiftResult op 1 sz (t.memRead sz e.addr)
    .next (({ t.memWrite sz e.addr r.1 with f := r.2 }.drawn 1).postStep e)

/-- RLD and RRD (R218, R219): `g` gives the new A and the new byte from the old ones. -/
def rotateDigits (g : BitVec 8 → Byte → BitVec 8 × Byte) (m : MemOp) (s : State) :
    Out State :=
  s.withMem m fun e t =>
    let r := g t.regA (t.byte e.addr)
    let u := { t.setByte e.addr r.2 with f := digitFlags r.1 t.f }
    .next (u.setSlotAndStep e .B (t.curSlot .xwa) r.1)

/-- `RLC #4,r` (R210). -/
def execRlcNr (sz : Size) (n : BitVec 4) (r : RegOp) (s : State) : Out State :=
  shiftReg .rlc sz n (s.regSlot sz r) s

/-- `RRC #4,r` (R211). -/
def execRrcNr (sz : Size) (n : BitVec 4) (r : RegOp) (s : State) : Out State :=
  shiftReg .rrc sz n (s.regSlot sz r) s

/-- `RL #4,r` (R212). -/
def execRlNr (sz : Size) (n : BitVec 4) (r : RegOp) (s : State) : Out State :=
  shiftReg .rl sz n (s.regSlot sz r) s

/-- `RR #4,r` (R213). -/
def execRrNr (sz : Size) (n : BitVec 4) (r : RegOp) (s : State) : Out State :=
  shiftReg .rr sz n (s.regSlot sz r) s

/-- `SLA #4,r` (R214). -/
def execSlaNr (sz : Size) (n : BitVec 4) (r : RegOp) (s : State) : Out State :=
  shiftReg .sla sz n (s.regSlot sz r) s

/-- `SRA #4,r` (R215). -/
def execSraNr (sz : Size) (n : BitVec 4) (r : RegOp) (s : State) : Out State :=
  shiftReg .sra sz n (s.regSlot sz r) s

/-- `SLL #4,r` (R216). -/
def execSllNr (sz : Size) (n : BitVec 4) (r : RegOp) (s : State) : Out State :=
  shiftReg .sll sz n (s.regSlot sz r) s

/-- `SRL #4,r` (R217). -/
def execSrlNr (sz : Size) (n : BitVec 4) (r : RegOp) (s : State) : Out State :=
  shiftReg .srl sz n (s.regSlot sz r) s

/-- `RLC A,r` (R210). -/
def execRlcAr (sz : Size) (r : RegOp) (s : State) : Out State :=
  shiftReg .rlc sz (s.regA.setWidth 4) (s.regSlot sz r) s

/-- `RRC A,r` (R211). -/
def execRrcAr (sz : Size) (r : RegOp) (s : State) : Out State :=
  shiftReg .rrc sz (s.regA.setWidth 4) (s.regSlot sz r) s

/-- `RL A,r` (R212). -/
def execRlAr (sz : Size) (r : RegOp) (s : State) : Out State :=
  shiftReg .rl sz (s.regA.setWidth 4) (s.regSlot sz r) s

/-- `RR A,r` (R213). -/
def execRrAr (sz : Size) (r : RegOp) (s : State) : Out State :=
  shiftReg .rr sz (s.regA.setWidth 4) (s.regSlot sz r) s

/-- `SLA A,r` (R214). -/
def execSlaAr (sz : Size) (r : RegOp) (s : State) : Out State :=
  shiftReg .sla sz (s.regA.setWidth 4) (s.regSlot sz r) s

/-- `SRA A,r` (R215). -/
def execSraAr (sz : Size) (r : RegOp) (s : State) : Out State :=
  shiftReg .sra sz (s.regA.setWidth 4) (s.regSlot sz r) s

/-- `SLL A,r` (R216). -/
def execSllAr (sz : Size) (r : RegOp) (s : State) : Out State :=
  shiftReg .sll sz (s.regA.setWidth 4) (s.regSlot sz r) s

/-- `SRL A,r` (R217). -/
def execSrlAr (sz : Size) (r : RegOp) (s : State) : Out State :=
  shiftReg .srl sz (s.regA.setWidth 4) (s.regSlot sz r) s

/-- `RLD [A,](mem)` (R218). -/
def execRld (m : MemOp) (s : State) : Out State :=
  rotateDigits (fun a v => (a.extractLsb' 4 4 ++ v.extractLsb' 4 4, v.extractLsb' 0 4 ++ a.extractLsb' 0 4)) m s

/-- `RRD [A,](mem)` (R219). -/
def execRrd (m : MemOp) (s : State) : Out State :=
  rotateDigits (fun a v => (a.extractLsb' 4 4 ++ v.extractLsb' 0 4, a.extractLsb' 0 4 ++ v.extractLsb' 4 4)) m s

/-- `RLC (mem) / RLCW (mem)` (R210). -/
def execRlcm (sz : Size) (m : MemOp) (s : State) : Out State := shiftMem .rlc sz m s

/-- `RRC (mem) / RRCW (mem)` (R211). -/
def execRrcm (sz : Size) (m : MemOp) (s : State) : Out State := shiftMem .rrc sz m s

/-- `RL (mem) / RLW (mem)` (R212). -/
def execRlm (sz : Size) (m : MemOp) (s : State) : Out State := shiftMem .rl sz m s

/-- `RR (mem) / RRW (mem)` (R213). -/
def execRrm (sz : Size) (m : MemOp) (s : State) : Out State := shiftMem .rr sz m s

/-- `SLA (mem) / SLAW (mem)` (R214). -/
def execSlam (sz : Size) (m : MemOp) (s : State) : Out State := shiftMem .sla sz m s

/-- `SRA (mem) / SRAW (mem)` (R215). -/
def execSram (sz : Size) (m : MemOp) (s : State) : Out State := shiftMem .sra sz m s

/-- `SLL (mem) / SLLW (mem)` (R216). -/
def execSllm (sz : Size) (m : MemOp) (s : State) : Out State := shiftMem .sll sz m s

/-- `SRL (mem) / SRLW (mem)` (R217). -/
def execSrlm (sz : Size) (m : MemOp) (s : State) : Out State := shiftMem .srl sz m s

end Sys2Proof.Machine
end

