-- ==== Sys2Proof/Machine/Dispatch.lean ====
section
/-!
DEFINITION. The dispatch: one arm per constructor of `Instr`, one meaning per arm.
-/

namespace Sys2Proof.Machine

def exec (i : Instr) (s : State) : Host.Outcome State Fault Refusal :=
  match i with
  | .nop => Sys2Proof.Machine.execNop s
  | .pushSR => Sys2Proof.Machine.execPushSR s
  | .popSR => Sys2Proof.Machine.execPopSR s
  | .min => Sys2Proof.Machine.execMin s
  | .halt => Sys2Proof.Machine.execHalt s
  | .di => Sys2Proof.Machine.execDi s
  | .ei n => Sys2Proof.Machine.execEi n s
  | .reti => Sys2Proof.Machine.execReti s
  | .ldA8I8 a v => Sys2Proof.Machine.execLdA8I8 a v s
  | .pushI8 v => Sys2Proof.Machine.execPushI8 v s
  | .ldwA8I16 a v => Sys2Proof.Machine.execLdwA8I16 a v s
  | .pushwI16 v => Sys2Proof.Machine.execPushwI16 v s
  | .incf => Sys2Proof.Machine.execIncf s
  | .decf => Sys2Proof.Machine.execDecf s
  | .ret => Sys2Proof.Machine.execRet s
  | .retd d => Sys2Proof.Machine.execRetd d s
  | .rcf => Sys2Proof.Machine.execRcf s
  | .scf => Sys2Proof.Machine.execScf s
  | .ccf => Sys2Proof.Machine.execCcf s
  | .zcf => Sys2Proof.Machine.execZcf s
  | .pushA => Sys2Proof.Machine.execPushA s
  | .popA => Sys2Proof.Machine.execPopA s
  | .exFF => Sys2Proof.Machine.execExFF s
  | .ldf n => Sys2Proof.Machine.execLdf n s
  | .pushF => Sys2Proof.Machine.execPushF s
  | .popF => Sys2Proof.Machine.execPopF s
  | .jp16 a => Sys2Proof.Machine.execJp16 a s
  | .jp24 a => Sys2Proof.Machine.execJp24 a s
  | .call16 a => Sys2Proof.Machine.execCall16 a s
  | .call24 a => Sys2Proof.Machine.execCall24 a s
  | .calr d => Sys2Proof.Machine.execCalr d s
  | .ldRI8 R v => Sys2Proof.Machine.execLdRI8 R v s
  | .pushRW R => Sys2Proof.Machine.execPushRW R s
  | .ldRI16 R v => Sys2Proof.Machine.execLdRI16 R v s
  | .pushRL R => Sys2Proof.Machine.execPushRL R s
  | .ldRI32 R v => Sys2Proof.Machine.execLdRI32 R v s
  | .popRW R => Sys2Proof.Machine.execPopRW R s
  | .popRL R => Sys2Proof.Machine.execPopRL R s
  | .jr cc d => Sys2Proof.Machine.execJr cc d s
  | .jrl cc d => Sys2Proof.Machine.execJrl cc d s
  | .ldx a v => Sys2Proof.Machine.execLdx a v s
  | .swi n => Sys2Proof.Machine.execSwi n s
  | .ldrI sz r imm => Sys2Proof.Machine.execLdrI sz r imm s
  | .pushr sz r => Sys2Proof.Machine.execPushr sz r s
  | .popr sz r => Sys2Proof.Machine.execPopr sz r s
  | .cplr sz r => Sys2Proof.Machine.execCplr sz r s
  | .negr sz r => Sys2Proof.Machine.execNegr sz r s
  | .mulrrI sz r imm => Sys2Proof.Machine.execMulrrI sz r imm s
  | .mulsrrI sz r imm => Sys2Proof.Machine.execMulsrrI sz r imm s
  | .divrrI sz r imm => Sys2Proof.Machine.execDivrrI sz r imm s
  | .divsrrI sz r imm => Sys2Proof.Machine.execDivsrrI sz r imm s
  | .link r d => Sys2Proof.Machine.execLink r d s
  | .unlk r => Sys2Proof.Machine.execUnlk r s
  | .bs1f r => Sys2Proof.Machine.execBs1f r s
  | .bs1b r => Sys2Proof.Machine.execBs1b r s
  | .daa r => Sys2Proof.Machine.execDaa r s
  | .extz sz r => Sys2Proof.Machine.execExtz sz r s
  | .exts sz r => Sys2Proof.Machine.execExts sz r s
  | .paa sz r => Sys2Proof.Machine.execPaa sz r s
  | .mirr r => Sys2Proof.Machine.execMirr r s
  | .mula r => Sys2Proof.Machine.execMula r s
  | .djnz sz r d => Sys2Proof.Machine.execDjnz sz r d s
  | .andcfNr sz n r => Sys2Proof.Machine.execAndcfNr sz n r s
  | .orcfNr sz n r => Sys2Proof.Machine.execOrcfNr sz n r s
  | .xorcfNr sz n r => Sys2Proof.Machine.execXorcfNr sz n r s
  | .ldcfNr sz n r => Sys2Proof.Machine.execLdcfNr sz n r s
  | .stcfNr sz n r => Sys2Proof.Machine.execStcfNr sz n r s
  | .andcfAr sz r => Sys2Proof.Machine.execAndcfAr sz r s
  | .orcfAr sz r => Sys2Proof.Machine.execOrcfAr sz r s
  | .xorcfAr sz r => Sys2Proof.Machine.execXorcfAr sz r s
  | .ldcfAr sz r => Sys2Proof.Machine.execLdcfAr sz r s
  | .stcfAr sz r => Sys2Proof.Machine.execStcfAr sz r s
  | .ldcCr sz cr r => Sys2Proof.Machine.execLdcCr sz cr r s
  | .ldcR sz r cr => Sys2Proof.Machine.execLdcR sz r cr s
  | .resNr sz n r => Sys2Proof.Machine.execResNr sz n r s
  | .setNr sz n r => Sys2Proof.Machine.execSetNr sz n r s
  | .chgNr sz n r => Sys2Proof.Machine.execChgNr sz n r s
  | .bitNr sz n r => Sys2Proof.Machine.execBitNr sz n r s
  | .tsetNr sz n r => Sys2Proof.Machine.execTsetNr sz n r s
  | .minc1 m r => Sys2Proof.Machine.execMinc1 m r s
  | .minc2 m r => Sys2Proof.Machine.execMinc2 m r s
  | .minc4 m r => Sys2Proof.Machine.execMinc4 m r s
  | .mdec1 m r => Sys2Proof.Machine.execMdec1 m r s
  | .mdec2 m r => Sys2Proof.Machine.execMdec2 m r s
  | .mdec4 m r => Sys2Proof.Machine.execMdec4 m r s
  | .mulRr sz R r => Sys2Proof.Machine.execMulRr sz R r s
  | .mulsRr sz R r => Sys2Proof.Machine.execMulsRr sz R r s
  | .divRr sz R r => Sys2Proof.Machine.execDivRr sz R r s
  | .divsRr sz R r => Sys2Proof.Machine.execDivsRr sz R r s
  | .incNr sz n r => Sys2Proof.Machine.execIncNr sz n r s
  | .decNr sz n r => Sys2Proof.Machine.execDecNr sz n r s
  | .scc sz cc r => Sys2Proof.Machine.execScc sz cc r s
  | .addRr sz R r => Sys2Proof.Machine.execAddRr sz R r s
  | .ldRr sz R r => Sys2Proof.Machine.execLdRr sz R r s
  | .adcRr sz R r => Sys2Proof.Machine.execAdcRr sz R r s
  | .ldrR sz r R => Sys2Proof.Machine.execLdrR sz r R s
  | .subRr sz R r => Sys2Proof.Machine.execSubRr sz R r s
  | .ldrN sz r n => Sys2Proof.Machine.execLdrN sz r n s
  | .sbcRr sz R r => Sys2Proof.Machine.execSbcRr sz R r s
  | .exRr sz R r => Sys2Proof.Machine.execExRr sz R r s
  | .andRr sz R r => Sys2Proof.Machine.execAndRr sz R r s
  | .addrI sz r imm => Sys2Proof.Machine.execAddrI sz r imm s
  | .adcrI sz r imm => Sys2Proof.Machine.execAdcrI sz r imm s
  | .subrI sz r imm => Sys2Proof.Machine.execSubrI sz r imm s
  | .sbcrI sz r imm => Sys2Proof.Machine.execSbcrI sz r imm s
  | .andrI sz r imm => Sys2Proof.Machine.execAndrI sz r imm s
  | .xorrI sz r imm => Sys2Proof.Machine.execXorrI sz r imm s
  | .orrI sz r imm => Sys2Proof.Machine.execOrrI sz r imm s
  | .cprI sz r imm => Sys2Proof.Machine.execCprI sz r imm s
  | .xorRr sz R r => Sys2Proof.Machine.execXorRr sz R r s
  | .cprN sz r n => Sys2Proof.Machine.execCprN sz r n s
  | .orRr sz R r => Sys2Proof.Machine.execOrRr sz R r s
  | .rlcNr sz n r => Sys2Proof.Machine.execRlcNr sz n r s
  | .rrcNr sz n r => Sys2Proof.Machine.execRrcNr sz n r s
  | .rlNr sz n r => Sys2Proof.Machine.execRlNr sz n r s
  | .rrNr sz n r => Sys2Proof.Machine.execRrNr sz n r s
  | .slaNr sz n r => Sys2Proof.Machine.execSlaNr sz n r s
  | .sraNr sz n r => Sys2Proof.Machine.execSraNr sz n r s
  | .sllNr sz n r => Sys2Proof.Machine.execSllNr sz n r s
  | .srlNr sz n r => Sys2Proof.Machine.execSrlNr sz n r s
  | .cpRr sz R r => Sys2Proof.Machine.execCpRr sz R r s
  | .rlcAr sz r => Sys2Proof.Machine.execRlcAr sz r s
  | .rrcAr sz r => Sys2Proof.Machine.execRrcAr sz r s
  | .rlAr sz r => Sys2Proof.Machine.execRlAr sz r s
  | .rrAr sz r => Sys2Proof.Machine.execRrAr sz r s
  | .slaAr sz r => Sys2Proof.Machine.execSlaAr sz r s
  | .sraAr sz r => Sys2Proof.Machine.execSraAr sz r s
  | .sllAr sz r => Sys2Proof.Machine.execSllAr sz r s
  | .srlAr sz r => Sys2Proof.Machine.execSrlAr sz r s
  | .ldar sz R d => Sys2Proof.Machine.execLdar sz R d s
  | .ldmI8 m v => Sys2Proof.Machine.execLdmI8 m v s
  | .ldwmI16 m v => Sys2Proof.Machine.execLdwmI16 m v s
  | .popm m => Sys2Proof.Machine.execPopm m s
  | .popwm m => Sys2Proof.Machine.execPopwm m s
  | .ldmA16 m a => Sys2Proof.Machine.execLdmA16 m a s
  | .ldwmA16 m a => Sys2Proof.Machine.execLdwmA16 m a s
  | .ldaW R m => Sys2Proof.Machine.execLdaW R m s
  | .andcfAm m => Sys2Proof.Machine.execAndcfAm m s
  | .orcfAm m => Sys2Proof.Machine.execOrcfAm m s
  | .xorcfAm m => Sys2Proof.Machine.execXorcfAm m s
  | .ldcfAm m => Sys2Proof.Machine.execLdcfAm m s
  | .stcfAm m => Sys2Proof.Machine.execStcfAm m s
  | .ldaL R m => Sys2Proof.Machine.execLdaL R m s
  | .ldmRB m R => Sys2Proof.Machine.execLdmRB m R s
  | .ldmRW m R => Sys2Proof.Machine.execLdmRW m R s
  | .ldmRL m R => Sys2Proof.Machine.execLdmRL m R s
  | .andcfNm n m => Sys2Proof.Machine.execAndcfNm n m s
  | .orcfNm n m => Sys2Proof.Machine.execOrcfNm n m s
  | .xorcfNm n m => Sys2Proof.Machine.execXorcfNm n m s
  | .ldcfNm n m => Sys2Proof.Machine.execLdcfNm n m s
  | .stcfNm n m => Sys2Proof.Machine.execStcfNm n m s
  | .tsetNm n m => Sys2Proof.Machine.execTsetNm n m s
  | .resNm n m => Sys2Proof.Machine.execResNm n m s
  | .setNm n m => Sys2Proof.Machine.execSetNm n m s
  | .chgNm n m => Sys2Proof.Machine.execChgNm n m s
  | .bitNm n m => Sys2Proof.Machine.execBitNm n m s
  | .jpm cc m => Sys2Proof.Machine.execJpm cc m s
  | .callm cc m => Sys2Proof.Machine.execCallm cc m s
  | .retcc cc => Sys2Proof.Machine.execRetcc cc s
  | .pushm sz m => Sys2Proof.Machine.execPushm sz m s
  | .rld m => Sys2Proof.Machine.execRld m s
  | .rrd m => Sys2Proof.Machine.execRrd m s
  | .ldi sz p => Sys2Proof.Machine.execLdi sz p s
  | .ldir sz p => Sys2Proof.Machine.execLdir sz p s
  | .ldd sz p => Sys2Proof.Machine.execLdd sz p s
  | .lddr sz p => Sys2Proof.Machine.execLddr sz p s
  | .cpi sz R => Sys2Proof.Machine.execCpi sz R s
  | .cpir sz R => Sys2Proof.Machine.execCpir sz R s
  | .cpd sz R => Sys2Proof.Machine.execCpd sz R s
  | .cpdr sz R => Sys2Proof.Machine.execCpdr sz R s
  | .ldA16m sz a m => Sys2Proof.Machine.execLdA16m sz a m s
  | .ldRm sz R m => Sys2Proof.Machine.execLdRm sz R m s
  | .exmR sz m R => Sys2Proof.Machine.execExmR sz m R s
  | .addmI sz m imm => Sys2Proof.Machine.execAddmI sz m imm s
  | .adcmI sz m imm => Sys2Proof.Machine.execAdcmI sz m imm s
  | .submI sz m imm => Sys2Proof.Machine.execSubmI sz m imm s
  | .sbcmI sz m imm => Sys2Proof.Machine.execSbcmI sz m imm s
  | .andmI sz m imm => Sys2Proof.Machine.execAndmI sz m imm s
  | .xormI sz m imm => Sys2Proof.Machine.execXormI sz m imm s
  | .ormI sz m imm => Sys2Proof.Machine.execOrmI sz m imm s
  | .cpmI sz m imm => Sys2Proof.Machine.execCpmI sz m imm s
  | .mulRm sz R m => Sys2Proof.Machine.execMulRm sz R m s
  | .mulsRm sz R m => Sys2Proof.Machine.execMulsRm sz R m s
  | .divRm sz R m => Sys2Proof.Machine.execDivRm sz R m s
  | .divsRm sz R m => Sys2Proof.Machine.execDivsRm sz R m s
  | .incNm sz n m => Sys2Proof.Machine.execIncNm sz n m s
  | .decNm sz n m => Sys2Proof.Machine.execDecNm sz n m s
  | .rlcm sz m => Sys2Proof.Machine.execRlcm sz m s
  | .rrcm sz m => Sys2Proof.Machine.execRrcm sz m s
  | .rlm sz m => Sys2Proof.Machine.execRlm sz m s
  | .rrm sz m => Sys2Proof.Machine.execRrm sz m s
  | .slam sz m => Sys2Proof.Machine.execSlam sz m s
  | .sram sz m => Sys2Proof.Machine.execSram sz m s
  | .sllm sz m => Sys2Proof.Machine.execSllm sz m s
  | .srlm sz m => Sys2Proof.Machine.execSrlm sz m s
  | .addRm sz R m => Sys2Proof.Machine.execAddRm sz R m s
  | .addmR sz m R => Sys2Proof.Machine.execAddmR sz m R s
  | .adcRm sz R m => Sys2Proof.Machine.execAdcRm sz R m s
  | .adcmR sz m R => Sys2Proof.Machine.execAdcmR sz m R s
  | .subRm sz R m => Sys2Proof.Machine.execSubRm sz R m s
  | .submR sz m R => Sys2Proof.Machine.execSubmR sz m R s
  | .sbcRm sz R m => Sys2Proof.Machine.execSbcRm sz R m s
  | .sbcmR sz m R => Sys2Proof.Machine.execSbcmR sz m R s
  | .andRm sz R m => Sys2Proof.Machine.execAndRm sz R m s
  | .andmR sz m R => Sys2Proof.Machine.execAndmR sz m R s
  | .xorRm sz R m => Sys2Proof.Machine.execXorRm sz R m s
  | .xormR sz m R => Sys2Proof.Machine.execXormR sz m R s
  | .orRm sz R m => Sys2Proof.Machine.execOrRm sz R m s
  | .ormR sz m R => Sys2Proof.Machine.execOrmR sz m R s
  | .cpRm sz R m => Sys2Proof.Machine.execCpRm sz R m s
  | .cpmR sz m R => Sys2Proof.Machine.execCpmR sz m R s

end Sys2Proof.Machine
end

