-- ==== Sys2Proof/Decode.lean ====
section
/-!
DEFINITION. The decoder and the encoder (30_encoding.md R60 to R89). `decode` is total:
from the bytes at the program counter it reads an instruction and its length, or rejects
them by name. `parse` reads the fields and `illFormed` then checks sizes and codes, which
is the table's "takes the first row whose two masked comparisons hold and whose sizes
contain the prefix size" (R89), no two rows of one format sharing an operation byte.
-/

namespace Sys2Proof

/-! ## Operand bytes, low byte first (20_memory.md R43, 30_encoding.md R77) -/

def take8 : List Byte → Except Reject (BitVec 8 × List Byte)
  | b :: t => .ok (b, t)
  | _ => .error .truncated

def take16 : List Byte → Except Reject (BitVec 16 × List Byte)
  | b0 :: b1 :: t => .ok (b1 ++ b0, t)
  | _ => .error .truncated

def take24 : List Byte → Except Reject (BitVec 24 × List Byte)
  | b0 :: b1 :: b2 :: t => .ok (b2 ++ b1 ++ b0, t)
  | _ => .error .truncated

def take32 : List Byte → Except Reject (BitVec 32 × List Byte)
  | b0 :: b1 :: b2 :: b3 :: t => .ok (b3 ++ b2 ++ b1 ++ b0, t)
  | _ => .error .truncated

/-- An immediate `#` of the operand size (R77). -/
def takeImm : (sz : Size) → List Byte → Except Reject (BitVec sz.bits × List Byte)
  | .B => take8
  | .W => take16
  | .L => take32

/-- The immediate of `op (mem),#`, which no row lists for long words (R81). -/
def takeMemImm (sz : Size) (t : List Byte) : Except Reject (BitVec sz.bits × List Byte) :=
  if sz = .L then .error .sizeNotListed else takeImm sz t

/-- The 4-bit number `#4`: the low four bits of its byte (R77, 93_implementation_defined.md U14). -/
def take4 (t : List Byte) : Except Reject (BitVec 4 × List Byte) := do
  let (b, t) ← take8 t
  .ok (b.setWidth 4, t)

/-- The 3-bit number of EI and LDF: a byte not above 07H (R77, U14). -/
def take3 (t : List Byte) : Except Reject (BitVec 3 × List Byte) := do
  let (b, t) ← take8 t
  if b.toNat > 7 then .error .numberAboveSeven else .ok (b.setWidth 3, t)

/-- The condition of a 4-bit code (R78). -/
def Cond.ofCode (c : BitVec 4) : Cond :=
  match c.toNat with
  | 0 => .f
  | 1 => .lt
  | 2 => .le
  | 3 => .ule
  | 4 => .ov
  | 5 => .mi
  | 6 => .z
  | 7 => .c
  | 8 => .t
  | 9 => .ge
  | 10 => .gt
  | 11 => .ugt
  | 12 => .nov
  | 13 => .pl
  | 14 => .nz
  | _ => .nc

/-! ## Memory operand prefixes (R68 to R75) -/

/-- The step of a 2-bit step code; 11 is "(Not defined)" (R74). -/
def parseStep (s : Byte) : Except Reject Step :=
  match (s.setWidth 2).toNat with
  | 0 => .ok .one
  | 1 => .ok .two
  | 2 => .ok .four
  | _ => .error .stepUndefined

/-- The modes behind the sub-byte of `mmmm = 0011` (R72, R73). `s = 13H`, the `(PC + d16)`
of LDAR, is no memory operand and is read by `parseLdar`. -/
def parseSubMode (t : List Byte) : Except Reject (MemOp × List Byte) := do
  let (s, t) ← take8 t
  match (s.setWidth 2).toNat with
  | 0 => .ok (.indExt (s.extractLsb' 2 6), t)
  | 1 => do
    let (d, t) ← take16 t
    .ok (.disp16 (s.extractLsb' 2 6) d, t)
  | 3 =>
    if s = 0x03 then do
      let (base, t) ← take8 t
      let (idx, t) ← take8 t
      .ok (.index8 base idx, t)
    else if s = 0x07 then do
      let (base, t) ← take8 t
      let (idx, t) ← take8 t
      .ok (.index16 base idx, t)
    else .error .subByteUndefined
  | _ => .error .subByteUndefined

/-- The memory operand that a SRC or DST prefix byte and its extension bytes name: bit 6
and bits 3:0 of the prefix select the mode (R68 to R75). -/
def parseMode (b0 : Byte) (t : List Byte) : Except Reject (MemOp × List Byte) :=
  if b0.getLsbD 6 then
    match (b0.setWidth 4).toNat with
    | 0 => do
      let (a, t) ← take8 t
      .ok (.abs8 a, t)
    | 1 => do
      let (a, t) ← take16 t
      .ok (.abs16 a, t)
    | 2 => do
      let (a, t) ← take24 t
      .ok (.abs24 a, t)
    | 3 => parseSubMode t
    | 4 => do
      let (s, t) ← take8 t
      let step ← parseStep s
      .ok (.preDec (s.extractLsb' 2 6) step, t)
    | 5 => do
      let (s, t) ← take8 t
      let step ← parseStep s
      .ok (.postInc (s.extractLsb' 2 6) step, t)
    | _ => .error .blankFirst
  else if b0.getLsbD 3 then do
    let (d, t) ← take8 t
    .ok (.disp8 (b0.setWidth 3) d, t)
  else
    .ok (.ind (b0.setWidth 3), t)

/-- The size of a REG or SRC prefix, bits 5:4 (R62); 11 selects another format and does
not reach here. -/
def parseSize (b0 : Byte) : Size :=
  match (b0.extractLsb' 4 2).toNat with
  | 0 => .B
  | 1 => .W
  | _ => .L

/-- The row lists one size only (R83). -/
def onlyAt (want sz : Size) (x : Except Reject (Instr × List Byte)) :
    Except Reject (Instr × List Byte) :=
  if sz = want then x else .error .sizeNotListed

/-! ## The opcode maps (R79 to R82) -/

/-- First bytes 00H to 7FH (R79). -/
def parseOp1 (b0 : Byte) (t : List Byte) : Except Reject (Instr × List Byte) :=
  let R : BitVec 3 := b0.setWidth 3
  match b0.toNat with
  | 0x00 => .ok (.nop, t)
  | 0x01 => .error .dummyFirst
  | 0x02 => .ok (.pushSR, t)
  | 0x03 => .ok (.popSR, t)
  | 0x04 => .ok (.min, t)
  | 0x05 => .ok (.halt, t)
  | 0x06 => do
    let (n, t) ← take3 t
    .ok (if n = 7 then .di else .ei n, t)
  | 0x07 => .ok (.reti, t)
  | 0x08 => do
    let (a, t) ← take8 t
    let (v, t) ← take8 t
    .ok (.ldA8I8 a v, t)
  | 0x09 => do
    let (v, t) ← take8 t
    .ok (.pushI8 v, t)
  | 0x0A => do
    let (a, t) ← take8 t
    let (v, t) ← take16 t
    .ok (.ldwA8I16 a v, t)
  | 0x0B => do
    let (v, t) ← take16 t
    .ok (.pushwI16 v, t)
  | 0x0C => .ok (.incf, t)
  | 0x0D => .ok (.decf, t)
  | 0x0E => .ok (.ret, t)
  | 0x0F => do
    let (d, t) ← take16 t
    .ok (.retd d, t)
  | 0x10 => .ok (.rcf, t)
  | 0x11 => .ok (.scf, t)
  | 0x12 => .ok (.ccf, t)
  | 0x13 => .ok (.zcf, t)
  | 0x14 => .ok (.pushA, t)
  | 0x15 => .ok (.popA, t)
  | 0x16 => .ok (.exFF, t)
  | 0x17 => do
    let (n, t) ← take3 t
    .ok (.ldf n, t)
  | 0x18 => .ok (.pushF, t)
  | 0x19 => .ok (.popF, t)
  | 0x1A => do
    let (a, t) ← take16 t
    .ok (.jp16 a, t)
  | 0x1B => do
    let (a, t) ← take24 t
    .ok (.jp24 a, t)
  | 0x1C => do
    let (a, t) ← take16 t
    .ok (.call16 a, t)
  | 0x1D => do
    let (a, t) ← take24 t
    .ok (.call24 a, t)
  | 0x1E => do
    let (d, t) ← take16 t
    .ok (.calr d, t)
  | k =>
    match k / 8 with
    | 4 => do
      let (v, t) ← take8 t
      .ok (.ldRI8 R v, t)
    | 5 => .ok (.pushRW R, t)
    | 6 => do
      let (v, t) ← take16 t
      .ok (.ldRI16 R v, t)
    | 7 => .ok (.pushRL R, t)
    | 8 => do
      let (v, t) ← take32 t
      .ok (.ldRI32 R v, t)
    | 9 => .ok (.popRW R, t)
    | 11 => .ok (.popRL R, t)
    | 12 | 13 => do
      let (d, t) ← take8 t
      .ok (.jr (Cond.ofCode (b0.setWidth 4)) d, t)
    | 14 | 15 => do
      let (d, t) ← take16 t
      .ok (.jrl (Cond.ofCode (b0.setWidth 4)) d, t)
    | _ => .error .blankFirst

/-- Second bytes after a REG prefix (R80). -/
def parseReg (sz : Size) (r : RegOp) (op : Byte) (t : List Byte) :
    Except Reject (Instr × List Byte) :=
  let R : BitVec 3 := op.setWidth 3
  match op.toNat with
  | 0x03 => do
    let (imm, t) ← takeImm sz t
    .ok (.ldrI sz r imm, t)
  | 0x04 => .ok (.pushr sz r, t)
  | 0x05 => .ok (.popr sz r, t)
  | 0x06 => .ok (.cplr sz r, t)
  | 0x07 => .ok (.negr sz r, t)
  | 0x08 => do
    let (imm, t) ← takeImm sz t
    .ok (.mulrrI sz r imm, t)
  | 0x09 => do
    let (imm, t) ← takeImm sz t
    .ok (.mulsrrI sz r imm, t)
  | 0x0A => do
    let (imm, t) ← takeImm sz t
    .ok (.divrrI sz r imm, t)
  | 0x0B => do
    let (imm, t) ← takeImm sz t
    .ok (.divsrrI sz r imm, t)
  | 0x0C => onlyAt .L sz (do
    let (d, t) ← take16 t
    .ok (.link r d, t))
  | 0x0D => onlyAt .L sz (.ok (.unlk r, t))
  | 0x0E => onlyAt .W sz (.ok (.bs1f r, t))
  | 0x0F => onlyAt .W sz (.ok (.bs1b r, t))
  | 0x10 => onlyAt .B sz (.ok (.daa r, t))
  | 0x12 => .ok (.extz sz r, t)
  | 0x13 => .ok (.exts sz r, t)
  | 0x14 => .ok (.paa sz r, t)
  | 0x16 => onlyAt .W sz (.ok (.mirr r, t))
  | 0x19 => onlyAt .W sz (.ok (.mula r, t))
  | 0x1A => .error .dummySecond
  | 0x1B => .error .dummySecond
  | 0x1C => do
    let (d, t) ← take8 t
    .ok (.djnz sz r d, t)
  | 0x20 => do
    let (n, t) ← take4 t
    .ok (.andcfNr sz n r, t)
  | 0x21 => do
    let (n, t) ← take4 t
    .ok (.orcfNr sz n r, t)
  | 0x22 => do
    let (n, t) ← take4 t
    .ok (.xorcfNr sz n r, t)
  | 0x23 => do
    let (n, t) ← take4 t
    .ok (.ldcfNr sz n r, t)
  | 0x24 => do
    let (n, t) ← take4 t
    .ok (.stcfNr sz n r, t)
  | 0x28 => .ok (.andcfAr sz r, t)
  | 0x29 => .ok (.orcfAr sz r, t)
  | 0x2A => .ok (.xorcfAr sz r, t)
  | 0x2B => .ok (.ldcfAr sz r, t)
  | 0x2C => .ok (.stcfAr sz r, t)
  | 0x2E => do
    let (cr, t) ← take8 t
    .ok (.ldcCr sz cr r, t)
  | 0x2F => do
    let (cr, t) ← take8 t
    .ok (.ldcR sz r cr, t)
  | 0x30 => do
    let (n, t) ← take4 t
    .ok (.resNr sz n r, t)
  | 0x31 => do
    let (n, t) ← take4 t
    .ok (.setNr sz n r, t)
  | 0x32 => do
    let (n, t) ← take4 t
    .ok (.chgNr sz n r, t)
  | 0x33 => do
    let (n, t) ← take4 t
    .ok (.bitNr sz n r, t)
  | 0x34 => do
    let (n, t) ← take4 t
    .ok (.tsetNr sz n r, t)
  | 0x38 => onlyAt .W sz (do
    let (m, t) ← take16 t
    .ok (.minc1 m r, t))
  | 0x39 => onlyAt .W sz (do
    let (m, t) ← take16 t
    .ok (.minc2 m r, t))
  | 0x3A => onlyAt .W sz (do
    let (m, t) ← take16 t
    .ok (.minc4 m r, t))
  | 0x3B => .error .dummySecond
  | 0x3C => onlyAt .W sz (do
    let (m, t) ← take16 t
    .ok (.mdec1 m r, t))
  | 0x3D => onlyAt .W sz (do
    let (m, t) ← take16 t
    .ok (.mdec2 m r, t))
  | 0x3E => onlyAt .W sz (do
    let (m, t) ← take16 t
    .ok (.mdec4 m r, t))
  | 0x3F => .error .dummySecond
  | 0xC8 => do
    let (imm, t) ← takeImm sz t
    .ok (.addrI sz r imm, t)
  | 0xC9 => do
    let (imm, t) ← takeImm sz t
    .ok (.adcrI sz r imm, t)
  | 0xCA => do
    let (imm, t) ← takeImm sz t
    .ok (.subrI sz r imm, t)
  | 0xCB => do
    let (imm, t) ← takeImm sz t
    .ok (.sbcrI sz r imm, t)
  | 0xCC => do
    let (imm, t) ← takeImm sz t
    .ok (.andrI sz r imm, t)
  | 0xCD => do
    let (imm, t) ← takeImm sz t
    .ok (.xorrI sz r imm, t)
  | 0xCE => do
    let (imm, t) ← takeImm sz t
    .ok (.orrI sz r imm, t)
  | 0xCF => do
    let (imm, t) ← takeImm sz t
    .ok (.cprI sz r imm, t)
  | 0xE8 => do
    let (n, t) ← take4 t
    .ok (.rlcNr sz n r, t)
  | 0xE9 => do
    let (n, t) ← take4 t
    .ok (.rrcNr sz n r, t)
  | 0xEA => do
    let (n, t) ← take4 t
    .ok (.rlNr sz n r, t)
  | 0xEB => do
    let (n, t) ← take4 t
    .ok (.rrNr sz n r, t)
  | 0xEC => do
    let (n, t) ← take4 t
    .ok (.slaNr sz n r, t)
  | 0xED => do
    let (n, t) ← take4 t
    .ok (.sraNr sz n r, t)
  | 0xEE => do
    let (n, t) ← take4 t
    .ok (.sllNr sz n r, t)
  | 0xEF => do
    let (n, t) ← take4 t
    .ok (.srlNr sz n r, t)
  | 0xF8 => .ok (.rlcAr sz r, t)
  | 0xF9 => .ok (.rrcAr sz r, t)
  | 0xFA => .ok (.rlAr sz r, t)
  | 0xFB => .ok (.rrAr sz r, t)
  | 0xFC => .ok (.slaAr sz r, t)
  | 0xFD => .ok (.sraAr sz r, t)
  | 0xFE => .ok (.sllAr sz r, t)
  | 0xFF => .ok (.srlAr sz r, t)
  | k =>
    match k / 8 with
    | 8 => .ok (.mulRr sz R r, t)
    | 9 => .ok (.mulsRr sz R r, t)
    | 10 => .ok (.divRr sz R r, t)
    | 11 => .ok (.divsRr sz R r, t)
    | 12 => .ok (.incNr sz R r, t)
    | 13 => .ok (.decNr sz R r, t)
    | 14 | 15 => .ok (.scc sz (Cond.ofCode (op.setWidth 4)) r, t)
    | 16 => .ok (.addRr sz R r, t)
    | 17 => .ok (.ldRr sz R r, t)
    | 18 => .ok (.adcRr sz R r, t)
    | 19 => .ok (.ldrR sz r R, t)
    | 20 => .ok (.subRr sz R r, t)
    | 21 => .ok (.ldrN sz r R, t)
    | 22 => .ok (.sbcRr sz R r, t)
    | 23 => .ok (.exRr sz R r, t)
    | 24 => .ok (.andRr sz R r, t)
    | 26 => .ok (.xorRr sz R r, t)
    | 27 => .ok (.cprN sz r R, t)
    | 28 => .ok (.orRr sz R r, t)
    | 30 => .ok (.cpRr sz R r, t)
    | _ => .error .blankSecond

/-- The block instructions exist after the `(R)` mode only, and LDI, LDIR, LDD, LDDR only
with XHL or XIY as the source pointer (43_block.md R115, R119). -/
def parseBlock (m : MemOp) (t : List Byte) (i : BlockPair → Instr) :
    Except Reject (Instr × List Byte) :=
  if m = .ind 3 then .ok (i .deHl, t)
  else if m = .ind 5 then .ok (i .ixIy, t)
  else .error .prefixNotAllowed

def parseBlockCp (m : MemOp) (t : List Byte) (i : BitVec 3 → Instr) :
    Except Reject (Instr × List Byte) :=
  match m with
  | .ind R => .ok (i R, t)
  | _ => .error .prefixNotAllowed

/-- Second bytes after a SRC prefix (R81). -/
def parseSrc (sz : Size) (m : MemOp) (op : Byte) (t : List Byte) :
    Except Reject (Instr × List Byte) :=
  let R : BitVec 3 := op.setWidth 3
  match op.toNat with
  | 0x04 => .ok (.pushm sz m, t)
  | 0x06 => onlyAt .B sz (.ok (.rld m, t))
  | 0x07 => onlyAt .B sz (.ok (.rrd m, t))
  | 0x10 => parseBlock m t (.ldi sz)
  | 0x11 => parseBlock m t (.ldir sz)
  | 0x12 => parseBlock m t (.ldd sz)
  | 0x13 => parseBlock m t (.lddr sz)
  | 0x14 => parseBlockCp m t (.cpi sz)
  | 0x15 => parseBlockCp m t (.cpir sz)
  | 0x16 => parseBlockCp m t (.cpd sz)
  | 0x17 => parseBlockCp m t (.cpdr sz)
  | 0x19 => do
    let (a, t) ← take16 t
    .ok (.ldA16m sz a m, t)
  | 0x38 => do
    let (imm, t) ← takeMemImm sz t
    .ok (.addmI sz m imm, t)
  | 0x39 => do
    let (imm, t) ← takeMemImm sz t
    .ok (.adcmI sz m imm, t)
  | 0x3A => do
    let (imm, t) ← takeMemImm sz t
    .ok (.submI sz m imm, t)
  | 0x3B => do
    let (imm, t) ← takeMemImm sz t
    .ok (.sbcmI sz m imm, t)
  | 0x3C => do
    let (imm, t) ← takeMemImm sz t
    .ok (.andmI sz m imm, t)
  | 0x3D => do
    let (imm, t) ← takeMemImm sz t
    .ok (.xormI sz m imm, t)
  | 0x3E => do
    let (imm, t) ← takeMemImm sz t
    .ok (.ormI sz m imm, t)
  | 0x3F => do
    let (imm, t) ← takeMemImm sz t
    .ok (.cpmI sz m imm, t)
  | 0x78 => .ok (.rlcm sz m, t)
  | 0x79 => .ok (.rrcm sz m, t)
  | 0x7A => .ok (.rlm sz m, t)
  | 0x7B => .ok (.rrm sz m, t)
  | 0x7C => .ok (.slam sz m, t)
  | 0x7D => .ok (.sram sz m, t)
  | 0x7E => .ok (.sllm sz m, t)
  | 0x7F => .ok (.srlm sz m, t)
  | k =>
    match k / 8 with
    | 4 => .ok (.ldRm sz R m, t)
    | 6 => .ok (.exmR sz m R, t)
    | 8 => .ok (.mulRm sz R m, t)
    | 9 => .ok (.mulsRm sz R m, t)
    | 10 => .ok (.divRm sz R m, t)
    | 11 => .ok (.divsRm sz R m, t)
    | 12 => .ok (.incNm sz R m, t)
    | 13 => .ok (.decNm sz R m, t)
    | 16 => .ok (.addRm sz R m, t)
    | 17 => .ok (.addmR sz m R, t)
    | 18 => .ok (.adcRm sz R m, t)
    | 19 => .ok (.adcmR sz m R, t)
    | 20 => .ok (.subRm sz R m, t)
    | 21 => .ok (.submR sz m R, t)
    | 22 => .ok (.sbcRm sz R m, t)
    | 23 => .ok (.sbcmR sz m R, t)
    | 24 => .ok (.andRm sz R m, t)
    | 25 => .ok (.andmR sz m R, t)
    | 26 => .ok (.xorRm sz R m, t)
    | 27 => .ok (.xormR sz m R, t)
    | 28 => .ok (.orRm sz R m, t)
    | 29 => .ok (.ormR sz m R, t)
    | 30 => .ok (.cpRm sz R m, t)
    | 31 => .ok (.cpmR sz m R, t)
    | _ => .error .blankSecond

/-- Second bytes after a DST prefix (R82). `b0` is the prefix byte: `RET cc` has B0H only. -/
def parseDst (b0 : Byte) (m : MemOp) (op : Byte) (t : List Byte) :
    Except Reject (Instr × List Byte) :=
  let R : BitVec 3 := op.setWidth 3
  let cc : Cond := Cond.ofCode (op.setWidth 4)
  match op.toNat with
  | 0x00 => do
    let (v, t) ← take8 t
    .ok (.ldmI8 m v, t)
  | 0x02 => do
    let (v, t) ← take16 t
    .ok (.ldwmI16 m v, t)
  | 0x04 => .ok (.popm m, t)
  | 0x06 => .ok (.popwm m, t)
  | 0x14 => do
    let (a, t) ← take16 t
    .ok (.ldmA16 m a, t)
  | 0x16 => do
    let (a, t) ← take16 t
    .ok (.ldwmA16 m a, t)
  | 0x28 => .ok (.andcfAm m, t)
  | 0x29 => .ok (.orcfAm m, t)
  | 0x2A => .ok (.xorcfAm m, t)
  | 0x2B => .ok (.ldcfAm m, t)
  | 0x2C => .ok (.stcfAm m, t)
  | k =>
    match k / 8 with
    | 4 => .ok (.ldaW R m, t)
    | 6 => .ok (.ldaL R m, t)
    | 8 => .ok (.ldmRB m R, t)
    | 10 => .ok (.ldmRW m R, t)
    | 12 => .ok (.ldmRL m R, t)
    | 16 => .ok (.andcfNm R m, t)
    | 17 => .ok (.orcfNm R m, t)
    | 18 => .ok (.xorcfNm R m, t)
    | 19 => .ok (.ldcfNm R m, t)
    | 20 => .ok (.stcfNm R m, t)
    | 21 => .ok (.tsetNm R m, t)
    | 22 => .ok (.resNm R m, t)
    | 23 => .ok (.setNm R m, t)
    | 24 => .ok (.chgNm R m, t)
    | 25 => .ok (.bitNm R m, t)
    | 26 | 27 => .ok (.jpm cc m, t)
    | 28 | 29 => .ok (.callm cc m, t)
    | 30 | 31 => if b0 = 0xB0 then .ok (.retcc cc, t) else .error .prefixNotAllowed
    | _ => .error .blankSecond

/-- LDAR after F3H:13H: d16, then the operation byte `001s0RRR` of LDA (41_load.md R104). -/
def parseLdar (t : List Byte) : Except Reject (Instr × List Byte) := do
  let (d, t) ← take16 t
  let (op, t) ← take8 t
  match op.toNat / 8 with
  | 4 => .ok (.ldar .W (op.setWidth 3) d, t)
  | 6 => .ok (.ldar .L (op.setWidth 3) d, t)
  | _ => .error .subByteUndefined

/-- LDX: bytes 2, 4 and 6 are fetched and ignored (47_control.md R199). -/
def parseLdx (t : List Byte) : Except Reject (Instr × List Byte) := do
  let (_, t) ← take8 t
  let (a, t) ← take8 t
  let (_, t) ← take8 t
  let (v, t) ← take8 t
  let (_, t) ← take8 t
  .ok (.ldx a v, t)

/-- A SRC prefix, its mode bytes and the operation byte (R68). -/
def parseSrcFormat (b0 : Byte) (t : List Byte) : Except Reject (Instr × List Byte) := do
  let (m, t) ← parseMode b0 t
  let (op, t) ← take8 t
  parseSrc (parseSize b0) m op t

/-- A DST prefix, its mode bytes and the operation byte (R69); F3H:13H is LDAR. -/
def parseDstFormat (b0 : Byte) (t : List Byte) : Except Reject (Instr × List Byte) :=
  if b0 = 0xF3 ∧ t.head? = some 0x13 then parseLdar t.tail
  else do
    let (m, t) ← parseMode b0 t
    let (op, t) ← take8 t
    parseDst b0 m op t

/-- A short REG prefix and the operation byte (R64). -/
def parseRegShort (b0 : Byte) (t : List Byte) : Except Reject (Instr × List Byte) := do
  let (op, t) ← take8 t
  parseReg (parseSize b0) (.short (b0.setWidth 3)) op t

/-- An extension REG prefix, the register code and the operation byte (R65). -/
def parseRegExt (b0 : Byte) (t : List Byte) : Except Reject (Instr × List Byte) := do
  let (code, t) ← take8 t
  let (op, t) ← take8 t
  parseReg (parseSize b0) (.ext code) op t

/-- The first byte gives the format (R60, R79). -/
def parse : List Byte → Except Reject (Instr × List Byte)
  | [] => .error .truncated
  | b0 :: t =>
    let low := (b0.setWidth 4).toNat
    match b0.toNat / 16 with
    | 8 | 9 | 10 => parseSrcFormat b0 t
    | 11 => parseDstFormat b0 t
    | 12 | 13 | 14 =>
      if low < 6 then parseSrcFormat b0 t
      else if low = 6 then .error .blankFirst
      else if low = 7 then parseRegExt b0 t
      else parseRegShort b0 t
    | 15 =>
      if low < 6 then parseDstFormat b0 t
      else if low = 6 then .error .blankFirst
      else if low = 7 then parseLdx t
      else .ok (.swi (b0.setWidth 3), t)
    | _ => parseOp1 b0 t

/-- The instruction at the head of the bytes and its length in bytes (R61), or why there
is none. -/
def decode (bs : List Byte) : Except Reject (Instr × Nat) :=
  match parse bs with
  | .error e => .error e
  | .ok (i, rest) =>
    match illFormed i with
    | some e => .error e
    | none => .ok (i, bs.length - rest.length)

/-! ## The encoder -/

def bytes16 (v : BitVec 16) : List Byte := [v.extractLsb' 0 8, v.extractLsb' 8 8]

def bytes24 (v : BitVec 24) : List Byte :=
  [v.extractLsb' 0 8, v.extractLsb' 8 8, v.extractLsb' 16 8]

def bytes32 (v : BitVec 32) : List Byte :=
  [v.extractLsb' 0 8, v.extractLsb' 8 8, v.extractLsb' 16 8, v.extractLsb' 24 8]

/-- An immediate of the operand size, low byte first (R77). -/
def immBytes : (sz : Size) → BitVec sz.bits → List Byte
  | .B, v => [v]
  | .W, v => bytes16 v
  | .L, v => bytes32 v

/-- A byte with a 3-bit field in bits 2:0. -/
def low3 (base : Byte) (R : BitVec 3) : Byte := base ||| R.setWidth 8

/-- A byte with a 4-bit field in bits 3:0. -/
def low4 (base : Byte) (c : BitVec 4) : Byte := base ||| c.setWidth 8

/-- The size code in bits 5:4 of a prefix (R62). -/
def sizeBits (sz : Size) : Byte := (sz.code.setWidth 8) <<< 4

/-- The REG prefix (R64, R65). -/
def regPrefix (sz : Size) : RegOp → List Byte
  | .short c => [low3 (0xC8 ||| sizeBits sz) c]
  | .ext code => [0xC7 ||| sizeBits sz, code]

def Step.code : Step → BitVec 2
  | .one => 0
  | .two => 1
  | .four => 2

/-- Bit 6 and bits 3:0 of a memory prefix (R68 to R75). -/
def modeBits : MemOp → Byte
  | .ind R => low3 0x00 R
  | .disp8 R _ => low3 0x08 R
  | .abs8 _ => 0x40
  | .abs16 _ => 0x41
  | .abs24 _ => 0x42
  | .indExt _ | .disp16 _ _ | .index8 _ _ | .index16 _ _ => 0x43
  | .preDec _ _ => 0x44
  | .postInc _ _ => 0x45

/-- The mode-extension bytes (R70 to R75). -/
def modeBytes : MemOp → List Byte
  | .ind _ => []
  | .disp8 _ d => [d]
  | .abs8 a => [a]
  | .abs16 a => bytes16 a
  | .abs24 a => bytes24 a
  | .indExt r32 => [r32 ++ (0 : BitVec 2)]
  | .disp16 r32 d => (r32 ++ (1 : BitVec 2)) :: bytes16 d
  | .index8 base idx => [0x03, base, idx]
  | .index16 base idx => [0x07, base, idx]
  | .preDec r32 step => [r32 ++ step.code]
  | .postInc r32 step => [r32 ++ step.code]

/-- The SRC prefix (R68). -/
def srcPrefix (sz : Size) (m : MemOp) : List Byte :=
  (0x80 ||| sizeBits sz ||| modeBits m) :: modeBytes m

/-- The DST prefix (R69). -/
def dstPrefix (m : MemOp) : List Byte := (0xB0 ||| modeBits m) :: modeBytes m

/-- The operation byte `001s0RRR` of LDA and LDAR (41_load.md R103, R104). -/
def ldaOp (sz : Size) (R : BitVec 3) : Byte :=
  if sz = .W then low3 0x20 R else low3 0x30 R

/-- The bytes of an instruction, written from the table's `encoding` column. -/
def encode : Instr → List Byte
  | .nop => [0x00]
  | .pushSR => [0x02]
  | .popSR => [0x03]
  | .min => [0x04]
  | .halt => [0x05]
  | .di => [0x06, 0x07]
  | .ei n => [0x06, n.setWidth 8]
  | .reti => [0x07]
  | .ldA8I8 a v => [0x08, a, v]
  | .pushI8 v => [0x09, v]
  | .ldwA8I16 a v => [0x0A, a] ++ bytes16 v
  | .pushwI16 v => [0x0B] ++ bytes16 v
  | .incf => [0x0C]
  | .decf => [0x0D]
  | .ret => [0x0E]
  | .retd d => [0x0F] ++ bytes16 d
  | .rcf => [0x10]
  | .scf => [0x11]
  | .ccf => [0x12]
  | .zcf => [0x13]
  | .pushA => [0x14]
  | .popA => [0x15]
  | .exFF => [0x16]
  | .ldf n => [0x17, n.setWidth 8]
  | .pushF => [0x18]
  | .popF => [0x19]
  | .jp16 a => [0x1A] ++ bytes16 a
  | .jp24 a => [0x1B] ++ bytes24 a
  | .call16 a => [0x1C] ++ bytes16 a
  | .call24 a => [0x1D] ++ bytes24 a
  | .calr d => [0x1E] ++ bytes16 d
  | .ldRI8 R v => [low3 0x20 R, v]
  | .pushRW R => [low3 0x28 R]
  | .ldRI16 R v => [low3 0x30 R] ++ bytes16 v
  | .pushRL R => [low3 0x38 R]
  | .ldRI32 R v => [low3 0x40 R] ++ bytes32 v
  | .popRW R => [low3 0x48 R]
  | .popRL R => [low3 0x58 R]
  | .jr cc d => [low4 0x60 cc.code, d]
  | .jrl cc d => [low4 0x70 cc.code] ++ bytes16 d
  | .ldx a v => [0xF7, 0x00, a, 0x00, v, 0x00]
  | .swi n => [low3 0xF8 n]
  | .ldrI sz r imm => regPrefix sz r ++ [0x03] ++ immBytes sz imm
  | .pushr sz r => regPrefix sz r ++ [0x04]
  | .popr sz r => regPrefix sz r ++ [0x05]
  | .cplr sz r => regPrefix sz r ++ [0x06]
  | .negr sz r => regPrefix sz r ++ [0x07]
  | .mulrrI sz r imm => regPrefix sz r ++ [0x08] ++ immBytes sz imm
  | .mulsrrI sz r imm => regPrefix sz r ++ [0x09] ++ immBytes sz imm
  | .divrrI sz r imm => regPrefix sz r ++ [0x0A] ++ immBytes sz imm
  | .divsrrI sz r imm => regPrefix sz r ++ [0x0B] ++ immBytes sz imm
  | .link r d => regPrefix .L r ++ [0x0C] ++ bytes16 d
  | .unlk r => regPrefix .L r ++ [0x0D]
  | .bs1f r => regPrefix .W r ++ [0x0E]
  | .bs1b r => regPrefix .W r ++ [0x0F]
  | .daa r => regPrefix .B r ++ [0x10]
  | .extz sz r => regPrefix sz r ++ [0x12]
  | .exts sz r => regPrefix sz r ++ [0x13]
  | .paa sz r => regPrefix sz r ++ [0x14]
  | .mirr r => regPrefix .W r ++ [0x16]
  | .mula r => regPrefix .W r ++ [0x19]
  | .djnz sz r d => regPrefix sz r ++ [0x1C] ++ [d]
  | .andcfNr sz n r => regPrefix sz r ++ [0x20] ++ [n.setWidth 8]
  | .orcfNr sz n r => regPrefix sz r ++ [0x21] ++ [n.setWidth 8]
  | .xorcfNr sz n r => regPrefix sz r ++ [0x22] ++ [n.setWidth 8]
  | .ldcfNr sz n r => regPrefix sz r ++ [0x23] ++ [n.setWidth 8]
  | .stcfNr sz n r => regPrefix sz r ++ [0x24] ++ [n.setWidth 8]
  | .andcfAr sz r => regPrefix sz r ++ [0x28]
  | .orcfAr sz r => regPrefix sz r ++ [0x29]
  | .xorcfAr sz r => regPrefix sz r ++ [0x2A]
  | .ldcfAr sz r => regPrefix sz r ++ [0x2B]
  | .stcfAr sz r => regPrefix sz r ++ [0x2C]
  | .ldcCr sz cr r => regPrefix sz r ++ [0x2E] ++ [cr]
  | .ldcR sz r cr => regPrefix sz r ++ [0x2F] ++ [cr]
  | .resNr sz n r => regPrefix sz r ++ [0x30] ++ [n.setWidth 8]
  | .setNr sz n r => regPrefix sz r ++ [0x31] ++ [n.setWidth 8]
  | .chgNr sz n r => regPrefix sz r ++ [0x32] ++ [n.setWidth 8]
  | .bitNr sz n r => regPrefix sz r ++ [0x33] ++ [n.setWidth 8]
  | .tsetNr sz n r => regPrefix sz r ++ [0x34] ++ [n.setWidth 8]
  | .minc1 m r => regPrefix .W r ++ [0x38] ++ bytes16 m
  | .minc2 m r => regPrefix .W r ++ [0x39] ++ bytes16 m
  | .minc4 m r => regPrefix .W r ++ [0x3A] ++ bytes16 m
  | .mdec1 m r => regPrefix .W r ++ [0x3C] ++ bytes16 m
  | .mdec2 m r => regPrefix .W r ++ [0x3D] ++ bytes16 m
  | .mdec4 m r => regPrefix .W r ++ [0x3E] ++ bytes16 m
  | .mulRr sz R r => regPrefix sz r ++ [low3 0x40 R]
  | .mulsRr sz R r => regPrefix sz r ++ [low3 0x48 R]
  | .divRr sz R r => regPrefix sz r ++ [low3 0x50 R]
  | .divsRr sz R r => regPrefix sz r ++ [low3 0x58 R]
  | .incNr sz n r => regPrefix sz r ++ [low3 0x60 n]
  | .decNr sz n r => regPrefix sz r ++ [low3 0x68 n]
  | .scc sz cc r => regPrefix sz r ++ [low4 0x70 cc.code]
  | .addRr sz R r => regPrefix sz r ++ [low3 0x80 R]
  | .ldRr sz R r => regPrefix sz r ++ [low3 0x88 R]
  | .adcRr sz R r => regPrefix sz r ++ [low3 0x90 R]
  | .ldrR sz r R => regPrefix sz r ++ [low3 0x98 R]
  | .subRr sz R r => regPrefix sz r ++ [low3 0xA0 R]
  | .ldrN sz r n => regPrefix sz r ++ [low3 0xA8 n]
  | .sbcRr sz R r => regPrefix sz r ++ [low3 0xB0 R]
  | .exRr sz R r => regPrefix sz r ++ [low3 0xB8 R]
  | .andRr sz R r => regPrefix sz r ++ [low3 0xC0 R]
  | .addrI sz r imm => regPrefix sz r ++ [0xC8] ++ immBytes sz imm
  | .adcrI sz r imm => regPrefix sz r ++ [0xC9] ++ immBytes sz imm
  | .subrI sz r imm => regPrefix sz r ++ [0xCA] ++ immBytes sz imm
  | .sbcrI sz r imm => regPrefix sz r ++ [0xCB] ++ immBytes sz imm
  | .andrI sz r imm => regPrefix sz r ++ [0xCC] ++ immBytes sz imm
  | .xorrI sz r imm => regPrefix sz r ++ [0xCD] ++ immBytes sz imm
  | .orrI sz r imm => regPrefix sz r ++ [0xCE] ++ immBytes sz imm
  | .cprI sz r imm => regPrefix sz r ++ [0xCF] ++ immBytes sz imm
  | .xorRr sz R r => regPrefix sz r ++ [low3 0xD0 R]
  | .cprN sz r n => regPrefix sz r ++ [low3 0xD8 n]
  | .orRr sz R r => regPrefix sz r ++ [low3 0xE0 R]
  | .rlcNr sz n r => regPrefix sz r ++ [0xE8] ++ [n.setWidth 8]
  | .rrcNr sz n r => regPrefix sz r ++ [0xE9] ++ [n.setWidth 8]
  | .rlNr sz n r => regPrefix sz r ++ [0xEA] ++ [n.setWidth 8]
  | .rrNr sz n r => regPrefix sz r ++ [0xEB] ++ [n.setWidth 8]
  | .slaNr sz n r => regPrefix sz r ++ [0xEC] ++ [n.setWidth 8]
  | .sraNr sz n r => regPrefix sz r ++ [0xED] ++ [n.setWidth 8]
  | .sllNr sz n r => regPrefix sz r ++ [0xEE] ++ [n.setWidth 8]
  | .srlNr sz n r => regPrefix sz r ++ [0xEF] ++ [n.setWidth 8]
  | .cpRr sz R r => regPrefix sz r ++ [low3 0xF0 R]
  | .rlcAr sz r => regPrefix sz r ++ [0xF8]
  | .rrcAr sz r => regPrefix sz r ++ [0xF9]
  | .rlAr sz r => regPrefix sz r ++ [0xFA]
  | .rrAr sz r => regPrefix sz r ++ [0xFB]
  | .slaAr sz r => regPrefix sz r ++ [0xFC]
  | .sraAr sz r => regPrefix sz r ++ [0xFD]
  | .sllAr sz r => regPrefix sz r ++ [0xFE]
  | .srlAr sz r => regPrefix sz r ++ [0xFF]
  | .ldar sz R d => [0xF3, 0x13] ++ bytes16 d ++ [ldaOp sz R]
  | .ldmI8 m v => dstPrefix m ++ [0x00] ++ [v]
  | .ldwmI16 m v => dstPrefix m ++ [0x02] ++ bytes16 v
  | .popm m => dstPrefix m ++ [0x04]
  | .popwm m => dstPrefix m ++ [0x06]
  | .ldmA16 m a => dstPrefix m ++ [0x14] ++ bytes16 a
  | .ldwmA16 m a => dstPrefix m ++ [0x16] ++ bytes16 a
  | .ldaW R m => dstPrefix m ++ [low3 0x20 R]
  | .andcfAm m => dstPrefix m ++ [0x28]
  | .orcfAm m => dstPrefix m ++ [0x29]
  | .xorcfAm m => dstPrefix m ++ [0x2A]
  | .ldcfAm m => dstPrefix m ++ [0x2B]
  | .stcfAm m => dstPrefix m ++ [0x2C]
  | .ldaL R m => dstPrefix m ++ [low3 0x30 R]
  | .ldmRB m R => dstPrefix m ++ [low3 0x40 R]
  | .ldmRW m R => dstPrefix m ++ [low3 0x50 R]
  | .ldmRL m R => dstPrefix m ++ [low3 0x60 R]
  | .andcfNm n m => dstPrefix m ++ [low3 0x80 n]
  | .orcfNm n m => dstPrefix m ++ [low3 0x88 n]
  | .xorcfNm n m => dstPrefix m ++ [low3 0x90 n]
  | .ldcfNm n m => dstPrefix m ++ [low3 0x98 n]
  | .stcfNm n m => dstPrefix m ++ [low3 0xA0 n]
  | .tsetNm n m => dstPrefix m ++ [low3 0xA8 n]
  | .resNm n m => dstPrefix m ++ [low3 0xB0 n]
  | .setNm n m => dstPrefix m ++ [low3 0xB8 n]
  | .chgNm n m => dstPrefix m ++ [low3 0xC0 n]
  | .bitNm n m => dstPrefix m ++ [low3 0xC8 n]
  | .jpm cc m => dstPrefix m ++ [low4 0xD0 cc.code]
  | .callm cc m => dstPrefix m ++ [low4 0xE0 cc.code]
  | .retcc cc => [0xB0, low4 0xF0 cc.code]
  | .pushm sz m => srcPrefix sz m ++ [0x04]
  | .rld m => srcPrefix .B m ++ [0x06]
  | .rrd m => srcPrefix .B m ++ [0x07]
  | .ldi sz p => srcPrefix sz (.ind p.code) ++ [0x10]
  | .ldir sz p => srcPrefix sz (.ind p.code) ++ [0x11]
  | .ldd sz p => srcPrefix sz (.ind p.code) ++ [0x12]
  | .lddr sz p => srcPrefix sz (.ind p.code) ++ [0x13]
  | .cpi sz R => srcPrefix sz (.ind R) ++ [0x14]
  | .cpir sz R => srcPrefix sz (.ind R) ++ [0x15]
  | .cpd sz R => srcPrefix sz (.ind R) ++ [0x16]
  | .cpdr sz R => srcPrefix sz (.ind R) ++ [0x17]
  | .ldA16m sz a m => srcPrefix sz m ++ [0x19] ++ bytes16 a
  | .ldRm sz R m => srcPrefix sz m ++ [low3 0x20 R]
  | .exmR sz m R => srcPrefix sz m ++ [low3 0x30 R]
  | .addmI sz m imm => srcPrefix sz m ++ [0x38] ++ immBytes sz imm
  | .adcmI sz m imm => srcPrefix sz m ++ [0x39] ++ immBytes sz imm
  | .submI sz m imm => srcPrefix sz m ++ [0x3A] ++ immBytes sz imm
  | .sbcmI sz m imm => srcPrefix sz m ++ [0x3B] ++ immBytes sz imm
  | .andmI sz m imm => srcPrefix sz m ++ [0x3C] ++ immBytes sz imm
  | .xormI sz m imm => srcPrefix sz m ++ [0x3D] ++ immBytes sz imm
  | .ormI sz m imm => srcPrefix sz m ++ [0x3E] ++ immBytes sz imm
  | .cpmI sz m imm => srcPrefix sz m ++ [0x3F] ++ immBytes sz imm
  | .mulRm sz R m => srcPrefix sz m ++ [low3 0x40 R]
  | .mulsRm sz R m => srcPrefix sz m ++ [low3 0x48 R]
  | .divRm sz R m => srcPrefix sz m ++ [low3 0x50 R]
  | .divsRm sz R m => srcPrefix sz m ++ [low3 0x58 R]
  | .incNm sz n m => srcPrefix sz m ++ [low3 0x60 n]
  | .decNm sz n m => srcPrefix sz m ++ [low3 0x68 n]
  | .rlcm sz m => srcPrefix sz m ++ [0x78]
  | .rrcm sz m => srcPrefix sz m ++ [0x79]
  | .rlm sz m => srcPrefix sz m ++ [0x7A]
  | .rrm sz m => srcPrefix sz m ++ [0x7B]
  | .slam sz m => srcPrefix sz m ++ [0x7C]
  | .sram sz m => srcPrefix sz m ++ [0x7D]
  | .sllm sz m => srcPrefix sz m ++ [0x7E]
  | .srlm sz m => srcPrefix sz m ++ [0x7F]
  | .addRm sz R m => srcPrefix sz m ++ [low3 0x80 R]
  | .addmR sz m R => srcPrefix sz m ++ [low3 0x88 R]
  | .adcRm sz R m => srcPrefix sz m ++ [low3 0x90 R]
  | .adcmR sz m R => srcPrefix sz m ++ [low3 0x98 R]
  | .subRm sz R m => srcPrefix sz m ++ [low3 0xA0 R]
  | .submR sz m R => srcPrefix sz m ++ [low3 0xA8 R]
  | .sbcRm sz R m => srcPrefix sz m ++ [low3 0xB0 R]
  | .sbcmR sz m R => srcPrefix sz m ++ [low3 0xB8 R]
  | .andRm sz R m => srcPrefix sz m ++ [low3 0xC0 R]
  | .andmR sz m R => srcPrefix sz m ++ [low3 0xC8 R]
  | .xorRm sz R m => srcPrefix sz m ++ [low3 0xD0 R]
  | .xormR sz m R => srcPrefix sz m ++ [low3 0xD8 R]
  | .orRm sz R m => srcPrefix sz m ++ [low3 0xE0 R]
  | .ormR sz m R => srcPrefix sz m ++ [low3 0xE8 R]
  | .cpRm sz R m => srcPrefix sz m ++ [low3 0xF0 R]
  | .cpmR sz m R => srcPrefix sz m ++ [low3 0xF8 R]

/-! ## The table's numbering of an instruction's bits -/

/-- The seven bytes of an instruction whose bits are `w`, bit 0 the least significant bit
of the first byte; every bit from `nbits` up is 0. -/
def tableBytes (nbits w : Nat) : List Byte :=
  (List.range 7).map fun k => BitVec.ofNat 8 (w % 2 ^ nbits / 2 ^ (8 * k))

/-- The instruction the decoder reads from a table word. -/
def decodeTableWord (nbits w : Nat) : Option Instr :=
  match decode (tableBytes nbits w) with
  | .ok (i, _) => some i
  | .error _ => none

end Sys2Proof
end

