-- ==== Sys2Proof/Machine/Events.lean ====
section
/-!
DEFINITION. What happens at a boundary between instructions (60_exceptions.md R251 to R257,
R268; 70_reset_and_hazards.md R280, R281), and fetching an instruction's bytes (20_memory.md R48).
-/

namespace Sys2Proof.Machine

/-! ## Interrupt requests -/

/-- A request of level L is enabled: `1 <= L` and `L >= max(IFF, 1)` (60_exceptions.md
R253). A level 0 request does not exist. -/
def State.enabled (s : State) (L : BitVec 3) : Bool :=
  decide (1 ≤ L.toNat) && decide (s.iff.toNat ≤ L.toNat)

/-! ## Micro DMA -/

/-- The transfer of one micro DMA request by a row of the table of 60_exceptions.md R268. The
source gives neither the size of the element nor by how much `+` and `-` step: the offer
names the size, and they step by that many bytes, after the dummy read of DRAM refresh too,
while the counter row adds the 1 that the table states. What becomes of DMACn and DMAMn is
not in the source: they become free values. DESIGN CHOICE (notes/assumptions/12.md),
unsafe. -/
def State.microDma (s : State) (n : BitVec 2) (mode : DmaMode) (sz : Size) : State :=
  let src := s.dmas.get n
  let dst := s.dmad.get n
  let copied := s.memWrite sz dst (s.memRead sz src)
  let t : State :=
    match mode with
    | .ioToMemInc => copied.setCreg (.dmad n) (dst + byteCount sz)
    | .ioToMemDec => copied.setCreg (.dmad n) (dst - byteCount sz)
    | .memToIoInc => copied.setCreg (.dmas n) (src + byteCount sz)
    | .memToIoDec => copied.setCreg (.dmas n) (src - byteCount sz)
    | .ioToIo => copied
    | .dramRefresh => s.setCreg (.dmas n) (src + byteCount sz)
    | .counter => s.setCreg (.dmas n) (src + 1)
  ((t.setCreg (.dmac n) (s.free 32 0)).setCreg (.dmam n) (s.free 32 1)).drawn 2

/-! ## Reset -/

/-- Four free values of the width of a control register, from the `i`-th draw on. -/
def State.freeFour (s : State) (c : CReg) (i : Nat) : Four Word32 :=
  { at0 := s.crFit c (s.free 32 i), at1 := s.crFit c (s.free 32 (i + 1)),
    at2 := s.crFit c (s.free 32 (i + 2)), at3 := s.crFit c (s.free 32 (i + 3)) }

/-- The pc that reset reads: three bytes at VECTOR_BASE, bits 31:24 0 (70_reset_and_hazards.md
R281). -/
def State.resetVector (s : State) : Word32 :=
  let a : Word32 := s.product.vectorBase.setWidth 32
  0#8 ++ s.byte (a + 2) ++ s.byte (a + 1) ++ s.byte a

/-- The reset sequence (70_reset_and_hazards.md R281) while the machine runs: what it leaves
unspecified becomes free values; memory is not written. DESIGN CHOICE (the form,
notes/assumptions/13.md), unsafe. -/
def State.resetSequence (s : State) : State :=
  { s with
    iff := 7
    max := true
    rfp := 0
    xsp := 0x100
    pc := s.resetVector
    halted := false
    banks := s.freeBanks 32 0
    minBanks := s.freeBanks 16 16
    xix := s.free 32 32
    xiy := s.free 32 33
    xiz := s.free 32 34
    f := Flags.ofByte (s.free 8 35)
    fAlt := Flags.ofByte (s.free 8 36)
    dmas := s.freeFour (.dmas 0) 37
    dmad := s.freeFour (.dmad 0) 41
    dmac := s.freeFour (.dmac 0) 45
    dmam := s.freeFour (.dmam 0) 49
    intnest := s.crFit .intnest (s.free 32 53)
    repeating := none
    draws := s.draws + 54 }

/-! ## Fetch -/

/-- The address of the instruction's byte number `i`: the pc counts modulo 2^32, in minimum
mode 2^16 (10_state.md R28). -/
def State.fetchAddr (s : State) (i : Nat) : Word32 := s.pcOf (s.pc + BitVec.ofNat 32 i)

/-- The byte that a fetch gives: a free value at an address of I/O or without memory
(20_memory.md R50). DESIGN CHOICE (notes/assumptions/2.md), safe. -/
def State.codeByte (s : State) (a : Word32) : Byte :=
  if s.isMemory a then s.cell a else Config.openFetch s.draws (cellOf a)

/-- The bytes from the pc on, as many as the longest instruction has (30_encoding.md R60). -/
def State.fetchBytes (s : State) : List Byte :=
  (List.range 7).map fun i => s.codeByte (s.fetchAddr i)

/-- The state in which an instruction of `n` bytes runs: the pc past it (10_state.md R28), no
block instruction under way. -/
def State.advance (s : State) (n : Nat) : State :=
  { s.begun with pc := s.fetchAddr n, repeating := none }

/-- Bytes put where the fetch reads them, from byte number `i` on, whether the address is of
RAM or ROM. -/
def State.placeBytes (s : State) (i : Nat) : List Byte → State
  | [] => s
  | b :: bs =>
    { s with mem := s.mem.write (cellOf (s.fetchAddr i)) b }.placeBytes (i + 1) bs

end Sys2Proof.Machine
end

