-- ==== Sys2Proof/Machine/Cycle.lean ====
section
/-!
DEFINITION. One instruction, and what the core does with an offer of the environment
(60_exceptions.md R255 to R257, R268; 70_reset_and_hazards.md R280).
-/

namespace Sys2Proof.Machine

/-- The instruction that repeats. -/
def Repeating.instr : Repeating → Instr
  | .ldir sz p => .ldir sz p
  | .lddr sz p => .lddr sz p
  | .cpir sz R => .cpir sz R
  | .cpdr sz R => .cpdr sz R

/-- One instruction: fetch, decode, the pc past its bytes, its meaning. A block instruction
that repeats does its next element without a fetch (43_block.md R116, R118, R120, R122).
While halted the core executes nothing (47_control.md R197). -/
def instruction (s : State) : Host.Outcome State Fault Refusal :=
  if s.halted then .next s
  else
    match s.repeating with
    | some i => exec i.instr (s.advance 2)
    | none =>
      match decode s.fetchBytes with
      | .ok (i, n) => exec i (s.advance n)
      | .error why => .fault (.undefinedCode why)

/-- Where an activity leads when it is not cut off; `s` itself where it does not start. -/
def State.finish (s : State) : Activity → State
  | .instruction =>
    match instruction s with
    | .next t => t
    | _ => s
  | .entry L V => if s.enabled L then s.begun.enterInterrupt L V else s
  | .transfer n mode sz => s.begun.microDma n mode sz

/-- The byte stores of an activity in their order (20_memory.md R55); none where it does not
start. -/
def State.storesOf (s : State) (during : Activity) : List (Word32 × Byte) :=
  ({ s with stores := [] }.finish during).stores

/-- Reset in the middle of an activity (70_reset_and_hazards.md R280): the first `done` of its
byte stores are done, and the reset sequence runs. DESIGN CHOICE (the form,
notes/assumptions/13.md), safe. -/
def State.cutOff (s : State) (during : Activity) (done : Nat) : State :=
  { s.replay ((s.storesOf during).take done) with
    draws := (s.finish during).draws }.begun.resetSequence

/-- What the core does with an offer, or `none` where it goes on with the next instruction:
a request that is not enabled is not taken (60_exceptions.md R255). -/
def State.accept (s : State) : Offer → Option State
  | .idle => none
  | .request L V => if s.enabled L then some (s.begun.enterInterrupt L V) else none
  | .microDma n mode sz => some (s.begun.microDma n mode sz)
  | .reset => some s.begun.resetSequence
  | .resetDuring during done => some (s.cutOff during done)

end Sys2Proof.Machine
end

