-- ==== Sys2Proof/Machine/Step.lean ====
section
/-!
DEFINITION. One step of the machine: what the environment offers at the boundary, or else
one instruction (60_exceptions.md R256).
-/

namespace Sys2Proof.Machine

/-- One step. A request, a micro DMA transfer or reset that is accepted is a step of its own,
and after it the next offer is looked at before an instruction runs: R255 gives one offer a
boundary and does not say whether an entry or a transfer opens a new one, so that a second
request may here be taken before the first instruction of a handler. An offer that is not
accepted is used up. DESIGN CHOICE (notes/assumptions/11.md, notes/assumptions/40.md),
safe. -/
def step (s : State) : Host.Outcome State Fault Refusal :=
  match s.offers with
  | [] => instruction s
  | o :: later =>
    match { s with offers := later }.accept o with
    | some t => .next t
    | none => instruction { s with offers := later }

/-- The instruction of a table word placed where the next step fetches it: its seven bytes
from the pc on, the core not halted, no block instruction under way and nothing offered
(notes/assumptions/14.md). -/
def State.withFetchWord (s : State) (nbits w : Nat) : State :=
  { s.placeBytes 0 (tableBytes nbits w) with halted := false, repeating := none, offers := [] }

end Sys2Proof.Machine
end

