-- ==== Sys2Proof/Safety.lean ====
section
/-!
DEFINITION. What every state of a run satisfies, what a run that goes well is, and the
terms in which the claims say what an instruction changes and what it keeps.
-/

namespace Sys2Proof.Machine

/-! ## Runs -/

/-- The invariant of the machine: memory has its canonical form; in maximum mode RFP2 is 0
(10_state.md R24); in minimum mode the pc has 16 bits (R27) and the product has the mode
(00_scope.md R7); every control register is within its width (R30). -/
structure State.Inv (s : State) : Prop where
  memory : Memory.wf s.mem = true
  bank : s.max = true → s.rfp.toNat < 4
  counter : s.max = false → s.pc.toNat < 2 ^ 16
  mode : s.max = false → s.product.minModeAvailable = true
  control : ∀ c, s.crFit c (s.creg c) = s.creg c

/-- `n` steps, each answering a next state. -/
def State.runs : State → Nat → State → Prop
  | s, 0, t => t = s
  | s, n + 1, t => ∃ u, step s = .next u ∧ u.runs n t

/-- No step of a run of `n` steps stops. -/
def State.goesWell (s : State) (n : Nat) : Prop := ∃ t, s.runs n t

/-! ## What an instruction keeps -/

/-- Address `x` is one of the bytes of an access of size `sz` at `a`. -/
def touches (sz : Size) (a x : Word32) : Prop :=
  ∃ k, k < sz.bytes ∧ cellOf x = cellOf (a + BitVec.ofNat 32 k)

/-- No byte of memory. -/
def nowhere (_ : Word32) : Prop := False

/-- No register. -/
def noReg (_ : PReg) : Prop := False

/-- From `s` to `t` every register outside `regs` and every byte that memory holds outside
`bytes` is kept, and so are F', IFF, MAX, RFP, the control registers, the halted flag, the
block instruction under way, the offers and the product parameters. It says nothing of the
pc, of F, of the draw counter and of the list of stores. -/
structure State.Kept (s t : State) (regs : PReg → Prop) (bytes : Word32 → Prop) : Prop where
  registers : ∀ p, ¬ regs p → t.reg p = s.reg p
  memory : ∀ a, ¬ bytes a → t.cell a = s.cell a
  fAlt : t.fAlt = s.fAlt
  iff : t.iff = s.iff
  max : t.max = s.max
  rfp : t.rfp = s.rfp
  dmas : t.dmas = s.dmas
  dmad : t.dmad = s.dmad
  dmac : t.dmac = s.dmac
  dmam : t.dmam = s.dmam
  intnest : t.intnest = s.intnest
  halted : t.halted = s.halted
  repeating : t.repeating = s.repeating
  offers : t.offers = s.offers
  product : t.product = s.product

/-- The byte stores of an access of size `sz` at `a`, low address first (20_memory.md R55). -/
def byteStores (sz : Size) (a : Word32) (v : BitVec sz.bits) : List (Word32 × Byte) :=
  (List.range sz.bytes).map fun k => (a + BitVec.ofNat 32 k, v.extractLsb' (8 * k) 8)

/-- From `s` to `t` the value `v` is stored at `a`: each byte of the access that is in RAM
holds its byte of `v`, and one that is not holds what it held (20_memory.md R43, R50). -/
def State.Stored (s t : State) (sz : Size) (a : Word32) (v : BitVec sz.bits) : Prop :=
  ∀ k, k < sz.bytes → t.cell (a + BitVec.ofNat 32 k) =
    if s.area (a + BitVec.ofNat 32 k) = .ram then v.extractLsb' (8 * k) 8
    else s.cell (a + BitVec.ofNat 32 k)

/-- The part `d` of a register holds `v`, and its other bits are kept (10_state.md R13). -/
structure State.Wrote (s t : State) (sz : Size) (d : Slot) (v : BitVec sz.bits) : Prop where
  value : t.slot sz d = v
  rest : ∀ i, i < d.lsb ∨ d.lsb + sz.bits ≤ i →
    (t.reg d.reg).getLsbD i = (s.reg d.reg).getLsbD i

/-- The register that an effective address steps. -/
def Eff.stepsReg (e : Eff) (p : PReg) : Prop := ∃ r, e.stepped = some r ∧ r.reg = p

/-- The address register `r` has moved by `d` within its width, and a narrow one keeps its upper
half (30_encoding.md R74, 43_block.md R115). -/
def State.MovedBy (s t : State) (r : AddrReg) (d : Word32) : Prop :=
  t.addrValue r = r.trunc (s.addrValue r + d) ∧
    (r.narrow = true → ∀ i, 16 ≤ i → (t.reg r.reg).getLsbD i = (s.reg r.reg).getLsbD i)

/-- What a post-increment adds to its register after the operation; 0 for any other mode. -/
def Eff.increment (e : Eff) : Word32 :=
  match e.stepping with
  | .post _ d => d
  | _ => 0

/-- The stepped register, if there is one, holds what its mode says (30_encoding.md R74,
R75): the address after a pre-decrement, the old value plus the step after a
post-increment; a narrow register's upper half is kept. -/
def State.SteppedTo (s t : State) (e : Eff) : Prop :=
  match e.stepping with
  | .none => True
  | .pre r =>
    t.addrValue r = e.addr ∧
      (r.narrow = true → ∀ i, 16 ≤ i → (t.reg r.reg).getLsbD i = (s.reg r.reg).getLsbD i)
  | .post r d => s.MovedBy t r d

/-- An instruction that writes `v` to the part `d` of a register and nothing else but F and
draws. -/
structure State.SetsReg (s t : State) (sz : Size) (d : Slot) (v : BitVec sz.bits) : Prop where
  wrote : s.Wrote t sz d v
  kept : s.Kept t (fun p => p = d.reg) nowhere
  pc : t.pc = s.pc

/-- An instruction that writes `v` to memory at `e` and nothing else but the stepped
register, F and draws. -/
structure State.SetsMem (s t : State) (sz : Size) (e : Eff) (v : BitVec sz.bits) : Prop where
  stored : s.Stored t sz e.addr v
  stepped : s.SteppedTo t e
  kept : s.Kept t e.stepsReg (touches sz e.addr)
  pc : t.pc = s.pc

/-- An instruction that only reads memory at `e`: nothing changes but the stepped register,
F and draws. -/
structure State.ReadsMem (s t : State) (e : Eff) : Prop where
  stepped : s.SteppedTo t e
  kept : s.Kept t e.stepsReg nowhere
  pc : t.pc = s.pc

/-- An instruction that writes `v`, read from memory at `e`, to the part `d` of a register.
Where the mode steps that very register only the frame is said
(93_implementation_defined.md U30). -/
structure State.LoadsReg (s t : State) (sz : Size) (e : Eff) (d : Slot)
    (v : BitVec sz.bits) (bytes : Word32 → Prop) : Prop where
  wrote : ¬ e.stepsReg d.reg → s.Wrote t sz d v ∧ s.SteppedTo t e
  kept : s.Kept t (fun p => p = d.reg ∨ e.stepsReg p) bytes
  pc : t.pc = s.pc

/-- An instruction that stores `v` under XSP and moves XSP down by its size (20_memory.md
R44), and changes nothing else but the registers in `more`, the pc, F and draws. -/
structure State.Pushes (s t : State) (sz : Size) (v : BitVec sz.bits) (more : PReg → Prop) :
    Prop where
  stored : s.Stored t sz (s.xsp - byteCount sz) v
  kept : s.Kept t (fun p => p = .fixed .xsp ∨ more p) (touches sz (s.xsp - byteCount sz))

/-- An instruction that writes `v` to the part `d` of a register and moves XSP up by the
size (20_memory.md R44), and changes nothing else but F and draws. A part of XSP itself ends
as the loaded value over the moved XSP or as the moved XSP has it
(notes/assumptions/29.md). -/
structure State.PopsReg (s t : State) (sz : Size) (d : Slot) (v : BitVec sz.bits) : Prop where
  wrote : d.reg ≠ .fixed .xsp → s.Wrote t sz d v ∧ t.xsp = s.xsp + byteCount sz
  pointer : d.reg = .fixed .xsp → t.xsp = s.xsp + byteCount sz ∨
    ({ s with xsp := s.xsp + byteCount sz } : State).Wrote t sz d v
  kept : s.Kept t (fun p => p = d.reg ∨ p = .fixed .xsp) nowhere
  pc : t.pc = s.pc

/-- The two pushes of SWI and of interrupt entry (47_control.md R196, 60_exceptions.md R257):
the pc at the mode's width above, SR below it, INTNEST one more, the pc from entry V of the
vector table as memory then is; nothing else but IFF, the halted flag and the block
instruction under way changes, and those are left to the caller, as is the order of the two
stores. -/
structure State.Enters (s t : State) (V : BitVec 24) : Prop where
  pointer : t.xsp = s.xsp - byteCount s.pcSize - 2
  status : s.Stored t .W t.xsp s.sr
  counter : s.Stored t s.pcSize (t.xsp + 2) (s.pc.setWidth _)
  nesting : t.intnest = s.crFit .intnest (s.intnest + 1)
  handler : t.pc = s.pcOf
    ((({ s with mem := t.mem } : State).memRead s.pcSize (s.vectorAddr V)).setWidth 32)
  flags : t.f = s.f
  kept : s.Kept
    { t with intnest := s.intnest, iff := s.iff, halted := s.halted, repeating := s.repeating }
    (fun p => p = .fixed .xsp)
    (fun a => touches .W (s.xsp - byteCount s.pcSize - 2) a ∨
      touches s.pcSize (s.xsp - byteCount s.pcSize) a)

/-! ## The instruction of an operation in a form -/

/-- `op R,r` (44_arithmetic.md R153). -/
def AluOp.regReg (op : AluOp) (sz : Size) (R : BitVec 3) (r : RegOp) : Instr :=
  match op with
  | .add => .addRr sz R r
  | .adc => .adcRr sz R r
  | .sub => .subRr sz R r
  | .sbc => .sbcRr sz R r
  | .and => .andRr sz R r
  | .xor => .xorRr sz R r
  | .or => .orRr sz R r
  | .cp => .cpRr sz R r

/-- `op r,#`. -/
def AluOp.regImm (op : AluOp) (sz : Size) (r : RegOp) (imm : BitVec sz.bits) : Instr :=
  match op with
  | .add => .addrI sz r imm
  | .adc => .adcrI sz r imm
  | .sub => .subrI sz r imm
  | .sbc => .sbcrI sz r imm
  | .and => .andrI sz r imm
  | .xor => .xorrI sz r imm
  | .or => .orrI sz r imm
  | .cp => .cprI sz r imm

/-- `op R,(mem)`. -/
def AluOp.regMem (op : AluOp) (sz : Size) (R : BitVec 3) (m : MemOp) : Instr :=
  match op with
  | .add => .addRm sz R m
  | .adc => .adcRm sz R m
  | .sub => .subRm sz R m
  | .sbc => .sbcRm sz R m
  | .and => .andRm sz R m
  | .xor => .xorRm sz R m
  | .or => .orRm sz R m
  | .cp => .cpRm sz R m

/-- `op (mem),R`. -/
def AluOp.memReg (op : AluOp) (sz : Size) (m : MemOp) (R : BitVec 3) : Instr :=
  match op with
  | .add => .addmR sz m R
  | .adc => .adcmR sz m R
  | .sub => .submR sz m R
  | .sbc => .sbcmR sz m R
  | .and => .andmR sz m R
  | .xor => .xormR sz m R
  | .or => .ormR sz m R
  | .cp => .cpmR sz m R

/-- `op (mem),#`. -/
def AluOp.memImm (op : AluOp) (sz : Size) (m : MemOp) (imm : BitVec sz.bits) : Instr :=
  match op with
  | .add => .addmI sz m imm
  | .adc => .adcmI sz m imm
  | .sub => .submI sz m imm
  | .sbc => .sbcmI sz m imm
  | .and => .andmI sz m imm
  | .xor => .xormI sz m imm
  | .or => .ormI sz m imm
  | .cp => .cpmI sz m imm

/-- `op #4,r` of a rotate or shift (48_rotate_shift.md R208). -/
def ShiftOp.regImm (op : ShiftOp) (sz : Size) (n : BitVec 4) (r : RegOp) : Instr :=
  match op with
  | .rlc => .rlcNr sz n r
  | .rrc => .rrcNr sz n r
  | .rl => .rlNr sz n r
  | .rr => .rrNr sz n r
  | .sla => .slaNr sz n r
  | .sra => .sraNr sz n r
  | .sll => .sllNr sz n r
  | .srl => .srlNr sz n r

/-- `op A,r` of a rotate or shift. -/
def ShiftOp.regA (op : ShiftOp) (sz : Size) (r : RegOp) : Instr :=
  match op with
  | .rlc => .rlcAr sz r
  | .rrc => .rrcAr sz r
  | .rl => .rlAr sz r
  | .rr => .rrAr sz r
  | .sla => .slaAr sz r
  | .sra => .sraAr sz r
  | .sll => .sllAr sz r
  | .srl => .srlAr sz r

/-- `op (mem)` of a rotate or shift. -/
def ShiftOp.mem (op : ShiftOp) (sz : Size) (m : MemOp) : Instr :=
  match op with
  | .rlc => .rlcm sz m
  | .rrc => .rrcm sz m
  | .rl => .rlm sz m
  | .rr => .rrm sz m
  | .sla => .slam sz m
  | .sra => .sram sz m
  | .sll => .sllm sz m
  | .srl => .srlm sz m

/-- `op #4,r` of ANDCF, ORCF, XORCF, LDCF (46_bit.md R186). -/
def CarryOp.regImm (op : CarryOp) (sz : Size) (n : BitVec 4) (r : RegOp) : Instr :=
  match op with
  | .andcf => .andcfNr sz n r
  | .orcf => .orcfNr sz n r
  | .xorcf => .xorcfNr sz n r
  | .ldcf => .ldcfNr sz n r

/-- `op A,r`. -/
def CarryOp.regA (op : CarryOp) (sz : Size) (r : RegOp) : Instr :=
  match op with
  | .andcf => .andcfAr sz r
  | .orcf => .orcfAr sz r
  | .xorcf => .xorcfAr sz r
  | .ldcf => .ldcfAr sz r

/-- `op #3,(mem)`. -/
def CarryOp.memImm (op : CarryOp) (n : BitVec 3) (m : MemOp) : Instr :=
  match op with
  | .andcf => .andcfNm n m
  | .orcf => .orcfNm n m
  | .xorcf => .xorcfNm n m
  | .ldcf => .ldcfNm n m

/-- `op A,(mem)`. -/
def CarryOp.memA (op : CarryOp) (m : MemOp) : Instr :=
  match op with
  | .andcf => .andcfAm m
  | .orcf => .orcfAm m
  | .xorcf => .xorcfAm m
  | .ldcf => .ldcfAm m

/-- The last byte of the instruction is a number `#4`, of which the core ignores the upper four
bits (30_encoding.md R77). -/
def EndsInFourBits (i : Instr) : Prop :=
  (∃ (op : CarryOp) (sz : Size) (n : BitVec 4) (r : RegOp), i = op.regImm sz n r) ∨
  (∃ (op : ShiftOp) (sz : Size) (n : BitVec 4) (r : RegOp), i = op.regImm sz n r) ∨
  ∃ (sz : Size) (n : BitVec 4) (r : RegOp), i = .stcfNr sz n r ∨ i = .resNr sz n r ∨
    i = .setNr sz n r ∨ i = .chgNr sz n r ∨ i = .bitNr sz n r ∨ i = .tsetNr sz n r

end Sys2Proof.Machine
end

