-- ==== Sys2Proof/Certificates/Slice0/Obligations.lean ====
section
/-!
DEFINITION. The statements for the provers. In a statement about `exec` the pc of the state
is already past the instruction (00_scope.md R8). A free value is never named: a statement
says what holds for every value of it. Numbers of the form "log n" are
notes/assumptions/<n>.md.
-/

open Sys2Proof Sys2Proof.Machine

/-- For every well-formed instruction i and whatever bytes follow, decoding the bytes of encode i
followed by them gives i and the number of bytes of encode i. (R60, R61, R64, R65, R68, R69,
R70, R72, R73, R77, R79, R89.) -/
def Obligations.DecodeReadsEncodedInstruction : Prop :=
  ∀ (i : Instr) (rest : List Byte), WellFormed i = true →
    decode (encode i ++ rest) = .ok (i, (encode i).length)

/-- If the decoder reads instruction i of n bytes from any byte sequence, then i is well-formed, n
is the length of its encoding and between 1 and 7, and the first n bytes are that encoding,
but for what the core ignores: the upper four bits of a last byte that is a number #4 (marked
derived in R77; log 18), and bytes 2, 4 and 6 of LDX (R199). (R60, R61, R77, R83, R84, R199.) -/
def Obligations.DecodedInstructionIsWellFormed : Prop :=
  ∀ (bs : List Byte) (i : Instr) (n : Nat), decode bs = .ok (i, n) →
    WellFormed i = true ∧ n = (encode i).length ∧ 1 ≤ n ∧ n ≤ 7 ∧ n ≤ bs.length ∧
    ∀ k, k < n → bs[k]? = (encode i)[k]? ∨
      (k + 1 = n ∧ EndsInFourBits i ∧
        bs[k]?.map (·.setWidth 4) = (encode i)[k]?.map (·.setWidth 4)) ∨
      (k ∈ [1, 3, 5] ∧ ∃ a v, i = .ldx a v)

/-- Eight byte sequences of the spec decode to their instructions and lengths: LDAR XIX,$+4+1341H,
LDI (XIX+),(XIY+), DIV XIX,IY, SWI 5, ADD A,B, MINC1 8,IX, MULA XIX and DI. (R79, R80, R81,
R82, R104, R115, R130, R144, R146, R147, R193, R196.) -/
def Obligations.SpecWordsDecode : Prop :=
  decode [0xF3, 0x13, 0x41, 0x13, 0x34] = .ok (.ldar .L 4 0x1341, 5) ∧
  decode [0x85, 0x10] = .ok (.ldi .B .ixIy, 2) ∧
  decode [0xDD, 0x54] = .ok (.divRr .W 4 (.short 5), 2) ∧
  decode [0xFD] = .ok (.swi 5, 1) ∧
  decode [0xCA, 0x81] = .ok (.addRr .B 1 (.short 2), 2) ∧
  decode [0xDC, 0x38, 0x07, 0x00] = .ok (.minc1 0x0007 (.short 4), 4) ∧
  decode [0xDC, 0x19] = .ok (.mula (.short 4), 2) ∧
  decode [0x06, 0x07] = .ok (.di, 2)

/-- When the core is not halted and not between two elements of a block instruction, nothing is
offered or the offer is not accepted, and the decoder rejects the seven bytes fetched from the
pc on, the step answers the fault undefinedCode of that reason. Whatever bytes follow, it
rejects: the blank and dummy first bytes; a second byte above 07H of EI and LDF; after a REG
prefix, short or extended, the blank and dummy second bytes of R80, and a register code that
is not a multiple of the size; after a SRC prefix and a DST prefix, in every mode, the blank
second bytes of R81 and R82, a block instruction with a prefix it is not listed for, and RET
cc after another prefix than B0H; an undefined sub-byte, an operation byte other than 20+R and
30+R of LDAR, and step code 11; and, where the instruction's bytes are there, a second byte at
a size that R80 or R81 does not list. That such codes are faults is decision D9, which the
spec marks as its own (log 17). (R65, R72, R73, R74, R75, R77, R80, R81, R82, R83, R84, R85.) -/
def Obligations.BlankAndDummyCodesStop : Prop :=
  (∀ (s : State) (why : Reject), s.halted = false → s.repeating = none →
    decode ((List.range 7).map fun k => s.codeByte (s.fetchAddr k)) = .error why →
    (s.offers = [] → step s = .fault (.undefinedCode why)) ∧
    (∀ (o : Offer) (later : List Offer), s.offers = o :: later →
      ({ s with offers := later } : State).accept o = none →
      step s = .fault (.undefinedCode why))) ∧
  ∀ rest : List Byte,
    let rejects (head : List Byte) (why : Reject) : Prop := decode (head ++ rest) = .error why
    let among (op : Byte) (ranges : List (Nat × Nat)) : Prop :=
      ∃ q ∈ ranges, q.1 ≤ op.toNat ∧ op.toNat ≤ q.2
    (∀ op : Byte, among op [(0x1F, 0x1F), (0x50, 0x57), (0xC6, 0xC6), (0xD6, 0xD6), (0xE6, 0xE6),
        (0xF6, 0xF6)] → rejects [op] .blankFirst) ∧
    rejects [0x01] .dummyFirst ∧
    (∀ n : Byte, 7 < n.toNat →
      rejects [0x06, n] .numberAboveSeven ∧ rejects [0x17, n] .numberAboveSeven) ∧
    (∀ (sz : Size) (r : RegOp) (op : Byte),
      (among op [(0x00, 0x02), (0x11, 0x11), (0x15, 0x15), (0x17, 0x18), (0x1D, 0x1F),
          (0x25, 0x27), (0x2D, 0x2D), (0x35, 0x37)] →
        rejects (regPrefix sz r ++ [op]) .blankSecond) ∧
      (among op [(0x1A, 0x1B), (0x3B, 0x3B), (0x3F, 0x3F)] →
        rejects (regPrefix sz r ++ [op]) .dummySecond) ∧
      (4 ≤ rest.length →
        (sz = .L ∧ among op [(0x06, 0x0B), (0x1C, 0x1C), (0x20, 0x24), (0x28, 0x2C), (0x30, 0x34),
            (0x40, 0x5F), (0x70, 0x7F), (0xB8, 0xBF), (0xD8, 0xDF)]) ∨
          (sz = .B ∧ among op [(0x12, 0x14)]) ∨ (sz ≠ .L ∧ among op [(0x0C, 0x0D)]) ∨
          (sz ≠ .B ∧ op = 0x10) ∨
          (sz ≠ .W ∧ among op [(0x0E, 0x0F), (0x16, 0x16), (0x19, 0x19), (0x38, 0x3A),
            (0x3C, 0x3E)]) →
        rejects (regPrefix sz r ++ [op]) .sizeNotListed)) ∧
    (∀ (sz : Size) (code : BitVec 8), code.toNat % sz.bytes ≠ 0 →
      ∃ why, rejects (regPrefix sz (.ext code)) why) ∧
    (∀ (sz : Size) (m : MemOp) (op : Byte),
      (among op [(0x00, 0x03), (0x05, 0x05), (0x08, 0x0F), (0x18, 0x18), (0x1A, 0x1F),
          (0x28, 0x2F), (0x70, 0x77)] → rejects (srcPrefix sz m ++ [op]) .blankSecond) ∧
      (4 ≤ rest.length →
        (sz = .L ∧ among op [(0x04, 0x04), (0x19, 0x19), (0x30, 0x6F), (0x78, 0x7F)]) ∨
          (sz ≠ .B ∧ among op [(0x06, 0x07)]) →
        rejects (srcPrefix sz m ++ [op]) .sizeNotListed) ∧
      (among op [(0x10, 0x17)] →
        sz = .L ∨ (∀ R, m ≠ .ind R) ∨ (op.toNat < 0x14 ∧ m ≠ .ind 3 ∧ m ≠ .ind 5) →
        ∃ why, rejects (srcPrefix sz m ++ [op]) why)) ∧
    (∀ (m : MemOp) (op : Byte),
      (among op [(0x01, 0x01), (0x03, 0x03), (0x05, 0x05), (0x07, 0x13), (0x15, 0x15),
          (0x17, 0x1F), (0x2D, 0x2F), (0x38, 0x3F), (0x48, 0x4F), (0x58, 0x5F), (0x68, 0x7F)] →
        rejects (dstPrefix m ++ [op]) .blankSecond) ∧
      (among op [(0xF0, 0xFF)] → m ≠ .ind 0 →
        rejects (dstPrefix m ++ [op]) .prefixNotAllowed)) ∧
    (∀ p ∈ ([0xC3, 0xD3, 0xE3, 0xF3] : List Byte), ∀ x : Byte,
      x.toNat % 4 = 2 ∨ (x.toNat % 4 = 3 ∧ x ≠ 0x03 ∧ x ≠ 0x07 ∧ ¬ (p = 0xF3 ∧ x = 0x13)) →
      rejects [p, x] .subByteUndefined) ∧
    (∀ (x y op : Byte), ¬ among op [(0x20, 0x27), (0x30, 0x37)] →
      rejects [0xF3, 0x13, x, y, op] .subByteUndefined) ∧
    (∀ p ∈ ([0xC4, 0xD4, 0xE4, 0xF4, 0xC5, 0xD5, 0xE5, 0xF5] : List Byte), ∀ x : Byte,
      x.toNat % 4 = 3 → rejects [p, x] .stepUndefined)

/-- When the core is not halted and nothing is offered, or what is offered is not accepted: if no
block instruction is between two elements and the bytes at the program counter decode to i of
n bytes, then i is well-formed and the step is exec of i with the pc moved past those n bytes;
if a block instruction is, the step is exec of that one with the pc moved past its two bytes,
without a fetch. The counter of free values goes up by 1 and no store is done yet (logs 4,
13). That an offer which is not accepted is used up, where R255 leaves it with the
environment, is the model's choice (logs 11, 40), and so is that the codes of a repeating
block instruction are not fetched again (log 15). (R28, R48, R61, R116, R118, R120, R122,
R255, R256.) -/
def Obligations.StepRunsDecodedInstruction : Prop :=
  ∀ s : State, s.halted = false →
    let runs (i : Instr) (n : Nat) : Prop :=
      (s.offers = [] → step s = exec i
        { s with
          pc := s.pcOf (s.pc + BitVec.ofNat 32 n), repeating := none, draws := s.draws + 1,
          stores := [] }) ∧
      (∀ (o : Offer) (later : List Offer), s.offers = o :: later →
        ({ s with offers := later } : State).accept o = none →
        step s = exec i
          { s with
            offers := later, pc := s.pcOf (s.pc + BitVec.ofNat 32 n), repeating := none,
            draws := s.draws + 1, stores := [] })
    (∀ (i : Instr) (n : Nat), s.repeating = none → decode s.fetchBytes = .ok (i, n) →
      WellFormed i = true ∧ runs i n) ∧
    (∀ (sz : Size) (p : BlockPair) (R : BitVec 3),
      (s.repeating = some (.ldir sz p) → runs (.ldir sz p) 2) ∧
      (s.repeating = some (.lddr sz p) → runs (.lddr sz p) 2) ∧
      (s.repeating = some (.cpir sz R) → runs (.cpir sz R) 2) ∧
      (s.repeating = some (.cpdr sz R) → runs (.cpdr sz R) 2))

/-- While the core is halted, a step in which nothing is offered leaves the whole state unchanged,
and a step whose offer is idle or a request that is not enabled only uses up the offer. That a
request which is not enabled does not wake the core is decision D18, which the spec marks as
its own (log 24), and that it is used up is the model's choice (log 11). (R197, R253, R256.) -/
def Obligations.HaltedCoreExecutesNothing : Prop :=
  ∀ s : State, s.halted = true →
    (s.offers = [] → step s = .next s) ∧
    (∀ later, s.offers = .idle :: later → step s = .next { s with offers := later }) ∧
    (∀ (L : BitVec 3) (V : BitVec 24) (later : List Offer), s.offers = .request L V :: later →
      (L.toNat = 0 ∨ L.toNat < s.iff.toNat) →
      step s = .next { s with offers := later })

/-- When the environment offers a request (L, V): if 1 <= L and IFF <= L the step pushes PC and
then SR, each low byte first, adds 1 to INTNEST, sets IFF to L + 1 (7 for level 7), ends the
halted state and jumps to the address in entry V of the vector table, keeping everything else;
otherwise the request is dropped from the offers and the core goes on with its instruction.
That it is dropped, where R255 leaves it with the environment, is the model's choice (logs 11,
40); that the entry read is 4 bytes wide in maximum and 2 in minimum mode is decision D13 (log
21); an entry in the middle of a block instruction ends its repetition, and its codes are
fetched again after RETI (log 15); an entry of I/O or no memory is read anew at this entry
(log 2). (R55, R116, R253, R255, R257.) -/
def Obligations.EnabledRequestIsTaken : Prop :=
  ∀ (s : State) (L : BitVec 3) (V : BitVec 24) (later : List Offer),
    Memory.wf s.mem = true → s.offers = .request L V :: later →
    (1 ≤ L.toNat ∧ s.iff.toNat ≤ L.toNat →
      ∃ t, step s = .next t ∧ ({ s with offers := later } : State).begun.Enters t V ∧
        t.stores = byteStores s.pcSize (t.xsp + 2) (s.pc.setWidth _) ++ byteStores .W t.xsp s.sr ∧
        t.iff = (if L = 7 then 7 else L + 1) ∧ t.halted = false ∧ t.repeating = none) ∧
    (¬ (1 ≤ L.toNat ∧ s.iff.toNat ≤ L.toNat) → step s = instruction { s with offers := later })

/-- When the environment offers a micro DMA request on channel n, the step stores the element at
DMASn to DMADn where the row of R268 says so, steps DMASn or DMADn as the row says, by the
bytes of the element or for the counter by 1, within the width of CR_MAP, and keeps pc, SR, F
prime, every general register, INTNEST, the other channels and every other byte that memory
holds. R268 is silent on the rest, and the model's choices are that DMACn and DMAMn are then
open, and the size of the element and that + and - step by it, the dummy read of DRAM refresh
included (log 12); that a halted core serves the request and stays halted (log 24); that it
does not end the repetition of a block instruction (log 15); that DMASn and DMADn step on all
bits of their CR_MAP width (log 39); and that an element in I/O or no memory is read anew by
each request (log 2). (R29, R268.) -/
def Obligations.MicroDmaTransfersOneElement : Prop :=
  ∀ (s : State) (n : BitVec 2) (mode : DmaMode) (sz : Size) (later : List Offer),
    Memory.wf s.mem = true → s.offers = .microDma n mode sz :: later →
    let source (v : Word32) := s.dmas.set n (s.crFit (.dmas n) v)
    let target (v : Word32) := s.dmad.set n (s.crFit (.dmad n) v)
    ∃ t, step s = .next t ∧
      t.pc = s.pc ∧ t.sr = s.sr ∧ t.fAlt = s.fAlt ∧ t.intnest = s.intnest ∧
      t.halted = s.halted ∧ t.repeating = s.repeating ∧ t.product = s.product ∧
      t.offers = later ∧ (∀ p, t.reg p = s.reg p) ∧
      (∀ m, m ≠ n → t.dmac.get m = s.dmac.get m ∧ t.dmam.get m = s.dmam.get m) ∧
      (match mode with
        | .dramRefresh | .counter => t.mem = s.mem
        | _ =>
          s.Stored t sz (s.dmad.get n) (s.begun.memRead sz (s.dmas.get n)) ∧
          ∀ a, ¬ touches sz (s.dmad.get n) a → t.cell a = s.cell a) ∧
      t.dmas = (match mode with
        | .memToIoInc | .dramRefresh => source (s.dmas.get n + byteCount sz)
        | .memToIoDec => source (s.dmas.get n - byteCount sz)
        | .counter => source (s.dmas.get n + 1)
        | _ => s.dmas) ∧
      t.dmad = (match mode with
        | .ioToMemInc => target (s.dmad.get n + byteCount sz)
        | .ioToMemDec => target (s.dmad.get n - byteCount sz)
        | _ => s.dmad)

/-- The state after reset, and the state a step leaves when the environment offers reset, have
SYSM 1, IFF 7, MAX 1, RFP 0, XSP 100H, bits 23:0 of the pc from the three bytes at
VECTOR_BASE, and the core not halted; a reset at a boundary writes no memory, and one in the
middle of an instruction, an entry or a transfer does the first done of the byte stores of
that activity in their order, PC before SR for an entry, SR before PC for SWI, and no other,
so that each byte is what the last of them put where the memory map has RAM, or as it was.
Bits 31:24 of the pc 0 is decision D13 (log 21); reset as an offer, and how many of the stores
are then done, are the model's choice (log 13), so is the order for SWI where R55 names
another one (log 43), and so is that a vector in I/O or no memory is read anew (log 2). (R20,
R21, R55, R196, R257, R280, R281.) -/
def Obligations.ResetLeavesStatedValues : Prop :=
  (State.reset.sr.extractLsb' 8 8 = 0xF8 ∧ State.reset.xsp = 0x100 ∧
    State.reset.halted = false ∧
    State.reset.pc = 0#8 ++ State.reset.byte (State.reset.product.vectorBase.setWidth 32 + 2) ++
      State.reset.byte (State.reset.product.vectorBase.setWidth 32 + 1) ++
      State.reset.byte (State.reset.product.vectorBase.setWidth 32)) ∧
  ∀ (s : State) (later : List Offer),
    let stated (t u : State) : Prop :=
      t.sr.extractLsb' 8 8 = 0xF8 ∧ t.xsp = 0x100 ∧ t.halted = false ∧ t.repeating = none ∧
      t.pc = 0#8 ++ u.byte (s.product.vectorBase.setWidth 32 + 2) ++
        u.byte (s.product.vectorBase.setWidth 32 + 1) ++
        u.byte (s.product.vectorBase.setWidth 32) ∧
      t.offers = later ∧ t.product = s.product
    (s.offers = .reset :: later → ∃ t, step s = .next t ∧ stated t s.begun ∧ t.mem = s.mem) ∧
    (∀ (during : Activity) (done : Nat), Memory.wf s.mem = true →
      s.offers = .resetDuring during done :: later →
      ∃ t u, step s = .next t ∧ u = ({ s with offers := later, stores := [] } : State).finish during ∧
        stated t ({ s with mem := t.mem, draws := u.draws } : State).begun ∧
        (∀ a, t.cell a =
          match (u.stores.take done).reverse.find? fun c => decide (cellOf c.1 = cellOf a) with
          | some c => if s.area a = .ram then c.2 else s.cell a
          | none => s.cell a) ∧
        (∀ L V, during = .entry L V → s.enabled L = true →
          u.stores = byteStores s.pcSize (s.xsp - byteCount s.pcSize) (s.pc.setWidth _) ++
            byteStores .W (s.xsp - byteCount s.pcSize - 2) s.sr) ∧
        ∀ n, during = .instruction → s.halted = false → s.repeating = none →
          decode s.fetchBytes = .ok (.swi n, 1) →
          u.stores = byteStores .W (s.xsp - byteCount s.pcSize - 2) s.sr ++
            byteStores s.pcSize (s.xsp - byteCount s.pcSize) ((s.pcOf (s.pc + 1)).setWidth _))

/-- The state after reset has its memory in canonical form, RFP2 0 in maximum mode, a 16-bit pc in
minimum mode, and minimum mode only where the product has it. (R7, R24, R27.) -/
def Obligations.ResetMeetsInvariant : Prop :=
  State.reset.Inv

/-- For every state with the invariant (memory in canonical form; RFP2 0 in maximum mode; pc bits
31:16 zero in minimum mode; minimum mode only where the product has it; every control register
within its width), whatever is offered and whatever instruction runs, the next state has it
too. (R7, R24, R27, R28, R30.) -/
def Obligations.EveryStepKeepsInvariant : Prop :=
  ∀ s t : State, s.Inv → step s = .next t → t.Inv

/-- If an instruction changes SR.MAX it is MIN, POP SR or RETI; if it changes SR.RFP it is LDF,
INCF, DECF, POP SR or RETI; if it changes SR.IFF it is EI, DI, POP SR or RETI. (R15, R17, R20,
R22.) -/
def Obligations.SrFieldsWrittenOnlyByTheirInstructions : Prop :=
  ∀ (i : Instr) (s t : State), exec i s = .next t →
    (t.max ≠ s.max → i = .min ∨ i = .popSR ∨ i = .reti) ∧
    (t.rfp ≠ s.rfp → (∃ n, i = .ldf n) ∨ i = .incf ∨ i = .decf ∨ i = .popSR ∨ i = .reti) ∧
    (t.iff ≠ s.iff → (∃ n, i = .ei n) ∨ i = .di ∨ i = .popSR ∨ i = .reti)

/-- If an instruction changes F prime it is EX F,F'; if it changes INTNEST it is SWI, RETI or LDC
cr,r; if it changes a micro DMA register it is LDC cr,r; if it changes the halted state it is
HALT; if it changes the block instruction under way it is LDIR, LDDR, CPIR or CPDR; none
changes the product parameters or what the environment offers. (R25, R29, R31, R116, R118,
R120, R122, R197.) -/
def Obligations.OtherCoreStateWrittenOnlyByItsInstructions : Prop :=
  ∀ (i : Instr) (s t : State), exec i s = .next t →
    (t.fAlt ≠ s.fAlt → i = .exFF) ∧
    (t.intnest ≠ s.intnest →
      (∃ n, i = .swi n) ∨ i = .reti ∨ ∃ sz cr r, i = .ldcCr sz cr r) ∧
    (t.dmas ≠ s.dmas ∨ t.dmad ≠ s.dmad ∨ t.dmac ≠ s.dmac ∨ t.dmam ≠ s.dmam →
      ∃ sz cr r, i = .ldcCr sz cr r) ∧
    (t.halted ≠ s.halted → i = .halt) ∧
    (t.repeating ≠ s.repeating → (∃ sz p, i = .ldir sz p ∨ i = .lddr sz p) ∨
      ∃ sz R, i = .cpir sz R ∨ i = .cpdr sz R) ∧
    t.product = s.product ∧ t.offers = s.offers

/-- MemRead of 1, 2 or 4 bytes is byte(addr) + 2^8 byte(addr+1) + 2^16 byte(addr+2) + 2^24
byte(addr+3), as many terms as bytes. In RAM and ROM a byte is what memory holds at bits 23:0
of its address; that an access so wraps at FFFFFFH is decision D4 (log 20). (R41, R42, R50.) -/
def Obligations.MemReadIsLittleEndian : Prop :=
  ∀ (s : State) (a : Word32),
    (∀ x : Word32, s.area x = .ram ∨ s.area x = .rom →
      s.byte x = s.mem.read (x.toNat % 2 ^ 24)) ∧
    (s.memRead .B a).toNat = (s.byte a).toNat ∧
    (s.memRead .W a).toNat = (s.byte a).toNat + 2 ^ 8 * (s.byte (a + 1)).toNat ∧
    (s.memRead .L a).toNat = (s.byte a).toNat + 2 ^ 8 * (s.byte (a + 1)).toNat +
      2 ^ 16 * (s.byte (a + 2)).toNat + 2 ^ 24 * (s.byte (a + 3)).toNat

/-- MemWrite of 1, 2 or 4 bytes stores bits 8k+7 to 8k of the value at addr + k for each byte k of
the size where the memory map has RAM, the lowest address first, and changes no byte elsewhere
(that ROM ignores a write, and I/O and unpopulated addresses hold none, is log 2); where all
of them are RAM a read of the same operand then gives the value; every other byte, every
register and the canonical form of memory are kept. (R41, R43, R46, R50, R55.) -/
def Obligations.MemWriteStoresEachByte : Prop :=
  ∀ (s : State) (sz : Size) (a : Word32) (v : BitVec sz.bits), Memory.wf s.mem = true →
    (∀ k, k < sz.bytes → (s.memWrite sz a v).cell (a + BitVec.ofNat 32 k) =
      if s.area (a + BitVec.ofNat 32 k) = .ram then v.extractLsb' (8 * k) 8
      else s.cell (a + BitVec.ofNat 32 k)) ∧
    ((∀ k, k < sz.bytes → s.area (a + BitVec.ofNat 32 k) = .ram) →
      (s.memWrite sz a v).memRead sz a = v) ∧
    (∀ x, ¬ touches sz a x → (s.memWrite sz a v).cell x = s.cell x) ∧
    (∀ p, (s.memWrite sz a v).reg p = s.reg p) ∧
    (s.memWrite sz a v).stores = s.stores ++ byteStores sz a v ∧
    Memory.wf (s.memWrite sz a v).mem = true

/-- The eight 3-bit codes name W, A, B, C, D, E, H, L at byte size and WA, BC, DE, HL, IX, IY, IZ,
SP and their 32-bit registers at word and long-word size; in maximum mode the 8-bit code
selects by bits 7:2 a register of bank 0 to 3, of the previous bank, of the current bank or a
fixed one, and by bits 1:0 the byte where the part starts; codes 40H to CFH name none. That
the previous bank of bank 0 is bank 3 is decision D17, which the spec marks as its own (log
23). (R14, R63, R66.) -/
def Obligations.RegisterCodesNameTheirRegisters : Prop :=
  ([0, 1, 2, 3, 4, 5, 6, 7].map (shortDesig .B) =
    [⟨.cur .xwa, 1⟩, ⟨.cur .xwa, 0⟩, ⟨.cur .xbc, 1⟩, ⟨.cur .xbc, 0⟩,
      ⟨.cur .xde, 1⟩, ⟨.cur .xde, 0⟩, ⟨.cur .xhl, 1⟩, ⟨.cur .xhl, 0⟩]) ∧
  (∀ sz, sz ≠ .B → [0, 1, 2, 3, 4, 5, 6, 7].map (shortDesig sz) =
    [⟨.cur .xwa, 0⟩, ⟨.cur .xbc, 0⟩, ⟨.cur .xde, 0⟩, ⟨.cur .xhl, 0⟩,
      ⟨.fixed .xix, 0⟩, ⟨.fixed .xiy, 0⟩, ⟨.fixed .xiz, 0⟩, ⟨.fixed .xsp, 0⟩]) ∧
  (∀ s : State, s.max = true → ∀ (i k : Nat), k < 4 →
    ∀ q ∈ [(0, BankedReg.xwa, FixedReg.xix), (1, .xbc, .xiy), (2, .xde, .xiz),
      (3, .xhl, .xsp)], let low := 4 * q.1 + k
      (i < 4 → s.regMap (BitVec.ofNat 8 (16 * i + low)) =
        some ⟨.abs (BitVec.ofNat 3 i) q.2.1, BitVec.ofNat 2 k⟩) ∧
      (4 ≤ i ∧ i < 13 → s.regMap (BitVec.ofNat 8 (16 * i + low)) = none) ∧
      s.regMap (BitVec.ofNat 8 (0xD0 + low)) = some ⟨.prev q.2.1, BitVec.ofNat 2 k⟩ ∧
      s.regMap (BitVec.ofNat 8 (0xE0 + low)) = some ⟨.cur q.2.1, BitVec.ofNat 2 k⟩ ∧
      s.regMap (BitVec.ofNat 8 (0xF0 + low)) = some ⟨.fixed q.2.2, BitVec.ofNat 2 k⟩) ∧
  (∀ s : State, s.max = true → ∀ k,
    s.place (.cur k) = .bank (BitVec.ofNat 3 (s.rfp.toNat % 4)) k ∧
    s.place (.prev k) = .bank (BitVec.ofNat 3 ((s.rfp.toNat + 3) % 4)) k)

/-- A 3-bit or 8-bit coded register supplies 32 bits in maximum mode; in minimum mode the map of
that mode (the product's, or an open one, log 8) names it, a fixed register supplies 32 bits
and a banked one its 16 bits extended with zeros. To that value the mode adds the sign-
extended displacement or index register; an absolute address is extended with zeros; (-r32)
gives the register minus the step, modulo 2^16 for a banked register of minimum mode, and
(r32+) the register, and both name that register as the one to step. (R11, R18, R67, R70, R71,
R72, R73, R74, R75.) -/
def Obligations.EffectiveAddressesOfTheModes : Prop :=
  ∀ (s : State),
    (∀ (R : BitVec 3) (d : Slot) (x : BitVec 8), s.shortSlot .L R = .next d →
      s.eff (.ind R) = .next ⟨s.slot .L d, .none⟩ ∧
      s.eff (.disp8 R x) = .next ⟨s.slot .L d + x.signExtend 32, .none⟩) ∧
    (∀ (R : BitVec 3) (d : Slot) (x : BitVec 8), s.max = false → R.toNat < 4 →
      s.shortSlot .W R = .next d →
      s.eff (.ind R) = .next ⟨(s.slot .W d).setWidth 32, .none⟩ ∧
      s.eff (.disp8 R x) = .next ⟨(s.slot .W d).setWidth 32 + x.signExtend 32, .none⟩) ∧
    (∀ a, s.eff (.abs8 a) = .next ⟨a.setWidth 32, .none⟩) ∧
    (∀ a, s.eff (.abs16 a) = .next ⟨a.setWidth 32, .none⟩) ∧
    (∀ a, s.eff (.abs24 a) = .next ⟨a.setWidth 32, .none⟩) ∧
    (∀ (r32 : BitVec 6) (d : Slot) (x : BitVec 16) (st : Step), s.max = true →
      s.codeSlot .L (r32 ++ 0#2) = .next d →
      s.eff (.indExt r32) = .next ⟨s.slot .L d, .none⟩ ∧
      s.eff (.disp16 r32 x) = .next ⟨s.slot .L d + x.signExtend 32, .none⟩ ∧
      s.eff (.preDec r32 st) =
        .next ⟨s.slot .L d - stepBytes st, .pre ⟨d.reg, false⟩⟩ ∧
      s.eff (.postInc r32 st) = .next ⟨s.slot .L d, .post ⟨d.reg, false⟩ (stepBytes st)⟩) ∧
    (∀ (base idx : BitVec 8) (d i : Slot), s.max = true → s.codeSlot .L base = .next d →
      (s.codeSlot .B idx = .next i →
        s.eff (.index8 base idx) = .next ⟨s.slot .L d + (s.slot .B i).signExtend 32, .none⟩) ∧
      (s.codeSlot .W idx = .next i →
        s.eff (.index16 base idx) =
          .next ⟨s.slot .L d + (s.slot .W i).signExtend 32, .none⟩)) ∧
    (s.max = false →
      let supplies (code : BitVec 8) (r : AddrReg) (v : Word32) : Prop :=
        (∃ j, s.regMap code = some ⟨.fixed j, 0⟩ ∧ r = ⟨.fixed j, false⟩ ∧
          v = s.reg (.fixed j)) ∨
        (∃ b, s.regMap code = some ⟨b, 0⟩ ∧ (∀ j, b ≠ .fixed j) ∧ r = ⟨s.place b, true⟩ ∧
          v = ((s.reg (s.place b)).setWidth 16).setWidth 32)
      (∀ (code : BitVec 8), s.regMap code = match s.product.minModeRegMap with
        | some l => l.lookup code
        | none => Config.minModeRegMap code) ∧
      (∀ (r32 : BitVec 6) (r : AddrReg) (v : Word32) (x : BitVec 16) (st : Step),
        supplies (r32 ++ 0#2) r v →
        s.eff (.indExt r32) = .next ⟨v, .none⟩ ∧
        s.eff (.disp16 r32 x) = .next ⟨v + x.signExtend 32, .none⟩ ∧
        s.eff (.preDec r32 st) = .next ⟨if r.narrow then
            ((v - stepBytes st).setWidth 16).setWidth 32 else v - stepBytes st, .pre r⟩ ∧
        s.eff (.postInc r32 st) = .next ⟨v, .post r (stepBytes st)⟩) ∧
      (∀ (base idx : BitVec 8) (r : AddrReg) (v : Word32) (i : Slot), supplies base r v →
        (s.codeSlot .B idx = .next i →
          s.eff (.index8 base idx) = .next ⟨v + (s.slot .B i).signExtend 32, .none⟩) ∧
        (s.codeSlot .W idx = .next i →
          s.eff (.index16 base idx) = .next ⟨v + (s.slot .W i).signExtend 32, .none⟩)))

/-- In every state bit 15 of SR is 1, bits 14:12 are IFF, bit 11 MAX, bits 10:8 RFP, and bits 7 to
0 are S, Z, 0, H, 0, V, N, C; writing a byte to F sets the six flags from those bits. That
bits 5 and 3 of the byte are dropped and read 0 is decision D15, which the spec marks as its
own (log 22). (R20, R21, R25.) -/
def Obligations.SrReadsItsFields : Prop :=
  (∀ s : State, s.sr.getLsbD 15 = true ∧ s.sr.extractLsb' 12 3 = s.iff ∧
    s.sr.getLsbD 11 = s.max ∧ s.sr.extractLsb' 8 3 = s.rfp ∧
    s.sr.getLsbD 7 = s.f.s ∧ s.sr.getLsbD 6 = s.f.z ∧ s.sr.getLsbD 5 = false ∧
    s.sr.getLsbD 4 = s.f.h ∧ s.sr.getLsbD 3 = false ∧ s.sr.getLsbD 2 = s.f.v ∧
    s.sr.getLsbD 1 = s.f.n ∧ s.sr.getLsbD 0 = s.f.c) ∧
  (∀ f : Flags, Flags.ofByte f.byte = f) ∧
  (∀ b : Byte, (Flags.ofByte b).byte = b &&& 0xD7)

/-- LT is S xor V, LE is Z or (S xor V), ULE is C or Z, OV is V, MI is S, Z is Z, C is C, F is
never, and each code with bit 3 set is the negation of the code without it. (R78.) -/
def Obligations.ConditionsAreTheFlagsTheTableNames : Prop :=
  ∀ f : Flags,
    f.holds (Cond.ofCode 0) = false ∧ f.holds (Cond.ofCode 1) = (f.s ^^ f.v) ∧
    f.holds (Cond.ofCode 2) = (f.z || (f.s ^^ f.v)) ∧ f.holds (Cond.ofCode 3) = (f.c || f.z) ∧
    f.holds (Cond.ofCode 4) = f.v ∧ f.holds (Cond.ofCode 5) = f.s ∧
    f.holds (Cond.ofCode 6) = f.z ∧ f.holds (Cond.ofCode 7) = f.c ∧
    (∀ c : BitVec 4, f.holds (Cond.ofCode (c ^^^ 8)) = !f.holds (Cond.ofCode c)) ∧
    (∀ c : BitVec 4, (Cond.ofCode c).code = c)

/-- For operands of w bits and a carry in, AddFlags answers the sum modulo 2^w, S its top bit, Z
whether it is 0, H the carry from bit 3 (a free bit for 32-bit operands), V exactly when the
signed sum does not fit, N 0, and C exactly when the unsigned sum does not fit. That overflow
means two's-complement overflow is the inference of R32 ("derived: the source uses V with the
signed conditions GE, LT, GT, LE ... which is correct only for that reading"). (R32.) -/
def Obligations.AddFlagsFollowTheSum : Prop :=
  ∀ (w : Nat) (a b : BitVec w) (cin long u : Bool), 0 < w →
    let full := a.toNat + b.toNat + cin.toNat
    let p := addFlags a b cin long u
    p.1.toNat = full % 2 ^ w ∧ p.2.s = p.1.getLsbD (w - 1) ∧ (p.2.z = true ↔ p.1 = 0) ∧
    (long = true → p.2.h = u) ∧
    (long = false → (p.2.h = true ↔ a.toNat % 16 + b.toNat % 16 + cin.toNat > 15)) ∧
    (p.2.v = true ↔ a.msb = b.msb ∧ p.1.msb ≠ a.msb) ∧
    (p.2.v = true ↔ a.toInt + b.toInt + cin.toNat < -2 ^ (w - 1) ∨
      2 ^ (w - 1) ≤ a.toInt + b.toInt + cin.toNat) ∧
    p.2.n = false ∧ (p.2.c = true ↔ 2 ^ w ≤ full)

/-- For operands of w bits and a borrow in, SubFlags answers a - b - bin modulo 2^w, S its top
bit, Z whether it is 0, H the borrow into bit 3 (a free bit for 32-bit operands), V by the
sign rule, which is when the signed difference does not fit, N 1, and C exactly when a is
below b + bin. (R33.) -/
def Obligations.SubFlagsFollowTheDifference : Prop :=
  ∀ (w : Nat) (a b : BitVec w) (bin long u : Bool), 0 < w →
    let p := subFlags a b bin long u
    ((p.1.toNat : Int) = ((a.toNat : Int) - b.toNat - bin.toNat) % 2 ^ w) ∧
    p.2.s = p.1.getLsbD (w - 1) ∧ (p.2.z = true ↔ p.1 = 0) ∧
    (long = true → p.2.h = u) ∧
    (long = false → (p.2.h = true ↔ a.toNat % 16 < b.toNat % 16 + bin.toNat)) ∧
    (p.2.v = true ↔ a.msb ≠ b.msb ∧ p.1.msb ≠ a.msb) ∧
    (p.2.v = true ↔ a.toInt - b.toInt - bin.toNat < -2 ^ (w - 1) ∨
      2 ^ (w - 1) ≤ a.toInt - b.toInt - bin.toNat) ∧
    p.2.n = true ∧ (p.2.c = true ↔ a.toNat < b.toNat + bin.toNat)

/-- At byte and word size Parity of a value is true exactly when the number of its 1 bits is even,
over all the bits of the operand; at long-word size it is the free bit. (R34.) -/
def Obligations.ParityCountsTheOnes : Prop :=
  ∀ (sz : Size) (v : BitVec sz.bits) (u : Bool),
    (sz ≠ .L → (parity v (decide (sz = .L)) u = true ↔
      Even ((List.range sz.bits).countP fun i => v.getLsbD i))) ∧
    (sz = .L → parity v (decide (sz = .L)) u = u)

/-- ADD and ADC use AddFlags without and with the carry, SUB, SBC and CP use SubFlags, AND, OR and
XOR combine the operands bit by bit, set S and Z from the result and V to its parity, clear N
and C, and set H to 1 for AND and to 0 for OR and XOR. State.aluResult, which the statements
about the forms use, is this operation with F of the state, told whether the operands have 32
bits, and with the next free bit as the flag that is undefined for them (log 4). (R35, R130,
R131, R132, R133, R134, R160, R161, R162.) -/
def Obligations.AluOperationsComputeTheirResults : Prop :=
  (∀ (s : State) (op : AluOp) (sz : Size) (a b : BitVec sz.bits),
    s.aluResult op sz a b = alu op a b s.f (decide (sz = .L)) (s.freeBit 0)) ∧
  ∀ (w : Nat) (a b : BitVec w) (f : Flags) (long u : Bool),
    alu .add a b f long u = addFlags a b false long u ∧
    alu .adc a b f long u = addFlags a b f.c long u ∧
    alu .sub a b f long u = subFlags a b false long u ∧
    alu .sbc a b f long u = subFlags a b f.c long u ∧
    alu .cp a b f long u = subFlags a b false long u ∧
    (∀ q ∈ [(AluOp.and, a &&& b, true), (.or, a ||| b, false), (.xor, a ^^^ b, false)],
      alu q.1 a b f long u = (q.2.1,
        { s := q.2.1.msb, z := decide (q.2.1 = 0), h := q.2.2, v := parity q.2.1 long u,
          n := false, c := false }))

/-- For every size and 0 to 16 steps: RLC and RRC rotate by n, RL and RR rotate the operand linked
with the carry, SLA and SLL shift left by n, SRA shifts right keeping the sign, SRL shifts
right; after at least one step the carry is the last bit moved out. The repeat count 0 of an
encoding means 16. (R208, R210, R211, R212, R213, R214, R215, R216, R217.) -/
def Obligations.ShiftsRotateAndShiftByTheirCount : Prop :=
  (∀ c : BitVec 4, shiftCount c = if c = 0 then 16 else c.toNat) ∧
  ∀ (sz : Size) (v : BitVec sz.bits) (c : Bool) (n : Nat), n ≤ 16 →
    (shiftSteps .rlc n v c).1 = v.rotateLeft n ∧
    (shiftSteps .rrc n v c).1 = v.rotateRight n ∧
    BitVec.ofBool (shiftSteps .rl n v c).2 ++ (shiftSteps .rl n v c).1 =
      (BitVec.ofBool c ++ v).rotateLeft n ∧
    BitVec.ofBool (shiftSteps .rr n v c).2 ++ (shiftSteps .rr n v c).1 =
      (BitVec.ofBool c ++ v).rotateRight n ∧
    (shiftSteps .sla n v c).1 = v <<< n ∧ (shiftSteps .sll n v c).1 = v <<< n ∧
    (shiftSteps .sra n v c).1 = v.sshiftRight n ∧ (shiftSteps .srl n v c).1 = v >>> n ∧
    (0 < n →
      (shiftSteps .rlc n v c).2 = (v.rotateLeft n).getLsbD 0 ∧
      (shiftSteps .rrc n v c).2 = (v.rotateRight n).msb ∧
      (shiftSteps .sla n v c).2 = (decide (n ≤ sz.bits) && v.getLsbD (sz.bits - n)) ∧
      (shiftSteps .sll n v c).2 = (decide (n ≤ sz.bits) && v.getLsbD (sz.bits - n)) ∧
      (shiftSteps .sra n v c).2 = v.getLsbD (Nat.min (n - 1) (sz.bits - 1)) ∧
      (shiftSteps .srl n v c).2 = v.getLsbD (n - 1))

/-- For a byte or word divisor, unsigned division answers remainder and quotient with n = q d + r
and r < d, signed division truncates toward zero with a remainder of the dividend's sign, and
there is no result exactly when the divisor is 0 or the quotient does not fit the divisor's
width. (R144, R145.) -/
def Obligations.DivisionGivesQuotientAndRemainder : Prop :=
  ∀ (sz : Size) (n : BitVec sz.double.bits) (d : BitVec sz.bits), sz ≠ .L →
    (quotient false sz n d = none ↔ d = 0 ∨ 2 ^ sz.bits ≤ n.toNat / d.toNat) ∧
    (∀ q, quotient false sz n d = some q →
      (q.toNat % 2 ^ sz.bits) * d.toNat + q.toNat / 2 ^ sz.bits = n.toNat ∧
      q.toNat / 2 ^ sz.bits < d.toNat) ∧
    (quotient true sz n d = none ↔ d = 0 ∨ n.toInt.tdiv d.toInt < -2 ^ (sz.bits - 1) ∨
      2 ^ (sz.bits - 1) ≤ n.toInt.tdiv d.toInt) ∧
    (∀ q, quotient true sz n d = some q →
      let quo := (q.setWidth sz.bits).toInt
      let rem := (q.extractLsb' sz.bits sz.bits).toInt
      quo * d.toInt + rem = n.toInt ∧ rem.natAbs < d.toInt.natAbs ∧
        (rem = 0 ∨ rem.sign = n.toInt.sign))

/-- For two numbers below 100 in BCD and a carry in, DAA of their binary sum or difference, with
the flags of AddFlags or SubFlags, is the BCD of the sum or difference modulo 100, and C is
then the decimal carry or borrow; S, Z, V follow the result and N is kept. (R140.) -/
def Obligations.DecimalAdjustCompletesBcd : Prop :=
  ∀ (x y : Nat) (cin u : Bool), x < 100 → y < 100 →
    let bcd (k : Nat) : BitVec 8 := BitVec.ofNat 8 (16 * (k / 10) + k % 10)
    let add := addFlags (bcd x) (bcd y) cin false u
    let sub := subFlags (bcd x) (bcd y) cin false u
    let p := decimalAdjust add.1 add.2
    let q := decimalAdjust sub.1 sub.2
    p.1 = bcd ((x + y + cin.toNat) % 100) ∧ p.2.c = decide (100 ≤ x + y + cin.toNat) ∧
    q.1 = bcd ((x + 100 - y - cin.toNat) % 100) ∧ q.2.c = decide (x < y + cin.toNat) ∧
    (∀ g ∈ [p, q], g.2.s = g.1.msb ∧ g.2.z = decide (g.1 = 0) ∧ g.2.v = parity g.1 false u) ∧
    p.2.n = false ∧ q.2.n = true

/-- For readable operands each register form of LD writes the immediate or the source register to
its destination and nothing else, LDAR writes the address of its last byte plus d16 cut to the
size, and SCC writes 1 if its condition holds, else 0; no flag, no other register and no byte
of memory changes. (R13, R100, R104, R205.) -/
def Obligations.LoadRegisterForms : Prop :=
  ∀ (s : State) (sz : Size) (R : BitVec 3) (r : RegOp) (d a : Slot),
    (∀ v : BitVec 8, s.shortSlot .B R = .next d →
      ∃ t, exec (.ldRI8 R v) s = .next t ∧ s.SetsReg t .B d v ∧ t.f = s.f) ∧
    (∀ v : BitVec 16, s.shortSlot .W R = .next d →
      ∃ t, exec (.ldRI16 R v) s = .next t ∧ s.SetsReg t .W d v ∧ t.f = s.f) ∧
    (∀ v : BitVec 32, s.shortSlot .L R = .next d →
      ∃ t, exec (.ldRI32 R v) s = .next t ∧ s.SetsReg t .L d v ∧ t.f = s.f) ∧
    (∀ v : BitVec sz.bits, s.regSlot sz r = .next d →
      ∃ t, exec (.ldrI sz r v) s = .next t ∧ s.SetsReg t sz d v ∧ t.f = s.f) ∧
    (∀ n : BitVec 3, s.regSlot sz r = .next d →
      ∃ t, exec (.ldrN sz r n) s = .next t ∧ s.SetsReg t sz d (BitVec.ofNat _ n.toNat) ∧
        t.f = s.f) ∧
    (s.shortSlot sz R = .next d → s.regSlot sz r = .next a →
      ∃ t, exec (.ldRr sz R r) s = .next t ∧ s.SetsReg t sz d (s.slot sz a) ∧ t.f = s.f) ∧
    (s.regSlot sz r = .next d → s.shortSlot sz R = .next a →
      ∃ t, exec (.ldrR sz r R) s = .next t ∧ s.SetsReg t sz d (s.slot sz a) ∧ t.f = s.f) ∧
    (∀ d16 : BitVec 16, s.shortSlot sz R = .next d →
      ∃ t, exec (.ldar sz R d16) s = .next t ∧
        s.SetsReg t sz d ((s.pcOf (s.pc - 1 + d16.signExtend 32)).setWidth _) ∧ t.f = s.f) ∧
    (∀ cc : Cond, s.regSlot sz r = .next d →
      ∃ t, exec (.scc sz cc r) s = .next t ∧
        s.SetsReg t sz d (BitVec.ofNat _ (s.f.holds cc).toNat) ∧ t.f = s.f)

/-- MIRR reverses the 16 bits of its register; EXTZ clears the upper half; EXTS fills the upper
half with the top bit of the lower half; PAA adds 1 to an odd value and keeps an even one;
none changes a flag, another register or memory. (R111, R138, R139, R141.) -/
def Obligations.ExtendMirrorAndEvenForms : Prop :=
  ∀ (s : State) (sz : Size) (r : RegOp) (d : Slot),
    (s.regSlot .W r = .next d → ∃ t v, exec (.mirr r) s = .next t ∧ s.SetsReg t .W d v ∧
      t.f = s.f ∧ ∀ i, i < 16 → v.getLsbD i = (s.slot .W d).getLsbD (15 - i)) ∧
    (s.regSlot sz r = .next d → ∃ t v, exec (.extz sz r) s = .next t ∧ s.SetsReg t sz d v ∧
      t.f = s.f ∧ ∀ i, i < sz.bits →
        v.getLsbD i = (decide (i < sz.bits / 2) && (s.slot sz d).getLsbD i)) ∧
    (s.regSlot sz r = .next d → ∃ t v, exec (.exts sz r) s = .next t ∧ s.SetsReg t sz d v ∧
      t.f = s.f ∧ ∀ i, i < sz.bits →
        v.getLsbD i = (s.slot sz d).getLsbD (if i < sz.bits / 2 then i else sz.bits / 2 - 1)) ∧
    (s.regSlot sz r = .next d → ∃ t v, exec (.paa sz r) s = .next t ∧ s.SetsReg t sz d v ∧
      t.f = s.f ∧ v = (if (s.slot sz d).toNat % 2 = 1 then s.slot sz d + 1 else s.slot sz d))

/-- With num = 2^k, k to 15 and from 1 for step 1, 2 for step 2, 3 for step 4, and a register that
is a multiple of the step 1, 2 or 4, MINC moves the register to (old + step) mod num and MDEC
to (old - step) mod num within its table, keeping the bits from k up; no flag, other register
or memory changes. (R147, R148, R149, R150, R151, R152, R154.) -/
def Obligations.ModuloCountersStayInTheirTable : Prop :=
  ∀ (s : State) (r : RegOp) (d : Slot) (imm : BitVec 16) (k : Nat), k ≤ 15 →
    s.regSlot .W r = .next d →
    let v := (s.slot .W d).toNat
    (∀ q ∈ [(Instr.minc1, 1, 1), (Instr.minc2, 2, 2), (Instr.minc4, 4, 3)],
      q.2.2 ≤ k → imm.toNat + q.2.1 = 2 ^ k → v % q.2.1 = 0 →
      ∃ t u, exec (q.1 imm r) s = .next t ∧ s.SetsReg t .W d u ∧ t.f = s.f ∧
        u.toNat = v - v % 2 ^ k + (v + q.2.1) % 2 ^ k) ∧
    (∀ q ∈ [(Instr.mdec1, 1, 1), (Instr.mdec2, 2, 2), (Instr.mdec4, 4, 3)],
      q.2.2 ≤ k → imm.toNat + q.2.1 = 2 ^ k → v % q.2.1 = 0 →
      ∃ t u, exec (q.1 imm r) s = .next t ∧ s.SetsReg t .W d u ∧ t.f = s.f ∧
        u.toNat = v - v % 2 ^ k + (v + 2 ^ k - q.2.1) % 2 ^ k)

/-- EX R,r exchanges two parts of registers that are the same or do not overlap; EX (mem),R
exchanges a register with memory; EX F,F prime exchanges the two flag registers; no flag is
otherwise changed, and nothing else but a stepped register. In EX (mem),R, where the mode
steps R itself, which U30 would refuse, the model's choice is that the instruction runs with
that register open and the stored value, which is read after the decrement of (-r32), the
flags and the frame are said (logs 27, 30). Parts that overlap without being the same are left
out. (R13, R110.) -/
def Obligations.ExchangeForms : Prop :=
  ∀ (s : State) (sz : Size) (R : BitVec 3) (r : RegOp) (d a : Slot),
    (s.shortSlot sz R = .next d → s.regSlot sz r = .next a →
      (d = a ∨ d.reg ≠ a.reg ∨ d.off.toNat + sz.bytes ≤ a.off.toNat ∨
        a.off.toNat + sz.bytes ≤ d.off.toNat) →
      ∃ t, exec (.exRr sz R r) s = .next t ∧ t.slot sz d = s.slot sz a ∧
        t.slot sz a = s.slot sz d ∧ t.f = s.f ∧ t.pc = s.pc ∧
        s.Kept t (fun p => p = d.reg ∨ p = a.reg) nowhere ∧
        (∀ i, (i < d.lsb ∨ d.lsb + sz.bits ≤ i) →
          (d.reg = a.reg → i < a.lsb ∨ a.lsb + sz.bits ≤ i) →
          (t.reg d.reg).getLsbD i = (s.reg d.reg).getLsbD i) ∧
        (∀ i, (i < a.lsb ∨ a.lsb + sz.bits ≤ i) →
          (d.reg = a.reg → i < d.lsb ∨ d.lsb + sz.bits ≤ i) →
          (t.reg a.reg).getLsbD i = (s.reg a.reg).getLsbD i)) ∧
    (∀ (m : MemOp) (e : Eff), Memory.wf s.mem = true → s.shortSlot sz R = .next a →
      s.eff m = .next e →
      ∃ t, exec (.exmR sz m R) s = .next t ∧
        s.LoadsReg t sz e a ((s.preStep e).memRead sz e.addr) (touches sz e.addr) ∧
        s.Stored t sz e.addr ((s.preStep e).slot sz a) ∧ t.f = s.f) ∧
    exec .exFF s = .next { s with f := s.fAlt, fAlt := s.f }

/-- For ADD, ADC, SUB, SBC, AND, XOR, OR and CP and readable operands, op R,r and op r,# write the
operation's result to the destination (CP writes none), set F to the operation's flags, and
change nothing else; CP r,#3 compares with the 3-bit number. (R130, R131, R132, R133, R134,
R153, R160, R161, R162.) -/
def Obligations.AluRegisterForms : Prop :=
  ∀ (s : State) (op : AluOp) (sz : Size) (R : BitVec 3) (r : RegOp) (d a : Slot),
    (s.shortSlot sz R = .next d → s.regSlot sz r = .next a →
      let x := s.aluResult op sz (s.slot sz d) (s.slot sz a)
      ∃ t, exec (op.regReg sz R r) s = .next t ∧ t.f = x.2 ∧
        (op ≠ .cp → s.SetsReg t sz d x.1) ∧
        (op = .cp → s.Kept t noReg nowhere ∧ t.pc = s.pc)) ∧
    (∀ imm : BitVec sz.bits, s.regSlot sz r = .next d →
      let x := s.aluResult op sz (s.slot sz d) imm
      ∃ t, exec (op.regImm sz r imm) s = .next t ∧ t.f = x.2 ∧
        (op ≠ .cp → s.SetsReg t sz d x.1) ∧
        (op = .cp → s.Kept t noReg nowhere ∧ t.pc = s.pc)) ∧
    (∀ n : BitVec 3, s.regSlot sz r = .next d →
      ∃ t, exec (.cprN sz r n) s = .next t ∧
        t.f = (s.aluResult .cp sz (s.slot sz d) (BitVec.ofNat _ n.toNat)).2 ∧
        s.Kept t noReg nowhere ∧ t.pc = s.pc)

/-- With effective address e, op R,(mem) writes the result to R, op (mem),R and op (mem),# write
it to the bytes at e, CP writes neither; F gets the operation's flags, a stepped register its
mode's value, and nothing else changes. In op R,(mem), where the mode steps R itself, which
U30 would refuse, the model's choice is that the instruction runs with that register open and
only the flags and the frame are said (log 27). With (-r32), where R is a part of the stepped
register, R is read after the decrement, an order that is the model's, in op (mem),R and for
the flags of op R,(mem) (log 30). (R74, R75, R130, R131, R132, R133, R134, R153, R160, R161,
R162.) -/
def Obligations.AluMemoryForms : Prop :=
  ∀ (s : State) (op : AluOp) (sz : Size) (R : BitVec 3) (m : MemOp) (e : Eff),
    Memory.wf s.mem = true → s.eff m = .next e →
    let u := s.preStep e
    (∀ d, s.shortSlot sz R = .next d →
      let x := u.aluResult op sz (u.slot sz d) (u.memRead sz e.addr)
      ∃ t, exec (op.regMem sz R m) s = .next t ∧ t.f = x.2 ∧
        (op ≠ .cp → s.LoadsReg t sz e d x.1 nowhere) ∧ (op = .cp → s.ReadsMem t e)) ∧
    (∀ a, s.shortSlot sz R = .next a →
      let x := u.aluResult op sz (u.memRead sz e.addr) (u.slot sz a)
      ∃ t, exec (op.memReg sz m R) s = .next t ∧ t.f = x.2 ∧
        (op ≠ .cp → s.SetsMem t sz e x.1) ∧ (op = .cp → s.ReadsMem t e)) ∧
    (∀ imm : BitVec sz.bits,
      let x := u.aluResult op sz (u.memRead sz e.addr) imm
      ∃ t, exec (op.memImm sz m imm) s = .next t ∧ t.f = x.2 ∧
        (op ≠ .cp → s.SetsMem t sz e x.1) ∧ (op = .cp → s.ReadsMem t e))

/-- INC and DEC of a byte register or of memory give the sum or difference with the count (code 0
is 8) and the flags of AddFlags or SubFlags but C, which is kept; of a word or long-word
register they change no flag; nothing else changes but a stepped register. (R135, R136.) -/
def Obligations.IncrementAndDecrementForms : Prop :=
  ∀ (s : State) (sz : Size) (n : BitVec 3),
    let k : BitVec sz.bits := BitVec.ofNat _ (if n = 0 then 8 else n.toNat)
    let long := decide (sz = .L)
    (∀ q ∈ [(Instr.incNr, Instr.incNm, @addFlags sz.bits), (.decNr, .decNm, @subFlags sz.bits)],
      (∀ (r : RegOp) (d : Slot), s.regSlot sz r = .next d →
        let x := q.2.2 (s.slot sz d) k false long (s.freeBit 0)
        ∃ t, exec (q.1 sz n r) s = .next t ∧ s.SetsReg t sz d x.1 ∧
          t.f = if sz = .B then { x.2 with c := s.f.c } else s.f) ∧
      (∀ (m : MemOp) (e : Eff), Memory.wf s.mem = true → s.eff m = .next e →
        let x := q.2.2 ((s.preStep e).memRead sz e.addr) k false long (s.freeBit 0)
        ∃ t, exec (q.2.1 sz n m) s = .next t ∧ s.SetsMem t sz e x.1 ∧
          t.f = { x.2 with c := s.f.c }))

/-- NEG writes 0 minus the register with the flags of that subtraction; CPL inverts every bit,
sets H and N and keeps the other flags; DAA writes the decimally adjusted byte and its flags;
nothing else changes. The DAA clause holds for every A and flags: on inputs outside the table
of the source, which U24 leaves open, it says what the total function of decision D16 does,
and H with N set follows U29; both are the model's choice (log 31). (R137, R140, R163.) -/
def Obligations.NegateComplementAndAdjustForms : Prop :=
  ∀ (s : State) (sz : Size) (r : RegOp) (d : Slot),
    (s.regSlot sz r = .next d →
      let x := subFlags 0 (s.slot sz d) false (decide (sz = .L)) (s.freeBit 0)
      ∃ t, exec (.negr sz r) s = .next t ∧ s.SetsReg t sz d x.1 ∧ t.f = x.2) ∧
    (s.regSlot sz r = .next d →
      ∃ t, exec (.cplr sz r) s = .next t ∧ s.SetsReg t sz d (~~~ s.slot sz d) ∧
        t.f = { s.f with h := true, n := true }) ∧
    (s.regSlot .B r = .next d →
      let x := decimalAdjust (s.slot .B d) s.f
      ∃ t, exec (.daa r) s = .next t ∧ s.SetsReg t .B d x.1 ∧ t.f = x.2)

/-- op #4,r and op A,r take 1 to 16 steps (the low four bits, 0 meaning 16) on the register, op
(mem) one step on memory; the operand gets the value after the steps, C the last carry, S and
Z the value, V its parity, H and N are cleared, and nothing else changes but a stepped
register. (R208, R209.) -/
def Obligations.ShiftForms : Prop :=
  ∀ (s : State) (op : ShiftOp) (sz : Size),
    let flags (r : BitVec sz.bits) (c : Bool) : Flags :=
      { s := r.msb, z := decide (r = 0), h := false,
        v := parity r (decide (sz = .L)) (s.freeBit 0), n := false, c := c }
    (∀ (n : BitVec 4) (r : RegOp) (d : Slot), s.regSlot sz r = .next d →
      let x := shiftSteps op (shiftCount n) (s.slot sz d) s.f.c
      ∃ t, exec (op.regImm sz n r) s = .next t ∧ s.SetsReg t sz d x.1 ∧ t.f = flags x.1 x.2) ∧
    (∀ (r : RegOp) (d : Slot), s.regSlot sz r = .next d →
      let x := shiftSteps op (shiftCount (s.regA.setWidth 4)) (s.slot sz d) s.f.c
      ∃ t, exec (op.regA sz r) s = .next t ∧ s.SetsReg t sz d x.1 ∧ t.f = flags x.1 x.2) ∧
    (∀ (m : MemOp) (e : Eff), Memory.wf s.mem = true → s.eff m = .next e →
      let x := shiftStep op ((s.preStep e).memRead sz e.addr) s.f.c
      ∃ t, exec (op.mem sz m) s = .next t ∧ s.SetsMem t sz e x.1 ∧ t.f = flags x.1 x.2)

/-- RLD moves the upper digit of the byte to A, its lower digit up and A's digit into the lower
place; RRD moves the lower digit to A, the upper digit down and A's digit into the upper
place; S, Z and V follow the new A, H and N are cleared, C is kept, and nothing else changes
but a stepped register. Where the mode steps XWA itself, which U30 would refuse, the model's
choice is that the instruction runs with that register open and only the stored byte, the
flags (of the A that is computed) and the frame are said, A being read after the decrement of
(-r32) (logs 27, 30). (R218, R219.) -/
def Obligations.DigitRotateForms : Prop :=
  ∀ (s : State) (m : MemOp) (e : Eff), Memory.wf s.mem = true → s.eff m = .next e →
    let u := s.preStep e
    let a := u.regA
    let b := u.byte e.addr
    let flags (x : BitVec 8) : Flags :=
      { s := x.msb, z := decide (x = 0), h := false, v := parity x false false, n := false,
        c := s.f.c }
    (let a' := a.extractLsb' 4 4 ++ b.extractLsb' 4 4
      ∃ t, exec (.rld m) s = .next t ∧
        s.LoadsReg t .B e (u.curSlot .xwa) a' (touches .B e.addr) ∧
        s.Stored t .B e.addr (b.extractLsb' 0 4 ++ a.extractLsb' 0 4) ∧ t.f = flags a') ∧
    (let a' := a.extractLsb' 4 4 ++ b.extractLsb' 0 4
      ∃ t, exec (.rrd m) s = .next t ∧
        s.LoadsReg t .B e (u.curSlot .xwa) a' (touches .B e.addr) ∧
        s.Stored t .B e.addr (a.extractLsb' 0 4 ++ b.extractLsb' 4 4) ∧ t.f = flags a')

/-- With bit number num (the immediate, or the low four bits of A) the new C is C and, or, xor the
bit, or the bit; where the operand has no such bit C is a free bit; the other flags, every
register but a stepped one and memory are kept. RCF and SCF clear and set C with H and N
cleared; CCF and ZCF load the inverse of C and of Z, clear N and leave H open. In op A,(mem)
with a (-r32) that steps XWA, A is read after the decrement, an order that is the model's (log
30). (R170, R172, R173, R174, R175, R176, R177, R178, R186.) -/
def Obligations.CarryBitForms : Prop :=
  ∀ (s : State) (op : CarryOp) (sz : Size),
    let carry (b : Bool) : Bool := match op with
      | .andcf => s.f.c && b
      | .orcf => s.f.c || b
      | .xorcf => s.f.c ^^ b
      | .ldcf => b
    let newC {w : Nat} (num : Nat) (v : BitVec w) : Bool :=
      if num < w then carry (v.getLsbD num) else s.freeBit 0
    (∀ (n : BitVec 4) (r : RegOp) (a : Slot), s.regSlot sz r = .next a →
      (∃ t, exec (op.regImm sz n r) s = .next t ∧ s.Kept t noReg nowhere ∧ t.pc = s.pc ∧
        t.f = { s.f with c := newC n.toNat (s.slot sz a) }) ∧
      (∃ t, exec (op.regA sz r) s = .next t ∧ s.Kept t noReg nowhere ∧ t.pc = s.pc ∧
        t.f = { s.f with c := newC (s.regA.toNat % 16) (s.slot sz a) })) ∧
    (∀ (n : BitVec 3) (m : MemOp) (e : Eff), s.eff m = .next e →
      (∃ t, exec (op.memImm n m) s = .next t ∧ s.ReadsMem t e ∧
        t.f = { s.f with c := newC n.toNat ((s.preStep e).byte e.addr) }) ∧
      (∃ t, exec (op.memA m) s = .next t ∧ s.ReadsMem t e ∧
        t.f = { s.f with
          c := newC ((s.preStep e).regA.toNat % 16) ((s.preStep e).byte e.addr) })) ∧
    exec .rcf s = .next { s with f := { s.f with c := false, h := false, n := false } } ∧
    exec .scf s = .next { s with f := { s.f with c := true, h := false, n := false } } ∧
    (∃ t h, exec .ccf s = .next t ∧ s.Kept t noReg nowhere ∧ t.pc = s.pc ∧
      t.f = { s.f with c := !s.f.c, h := h, n := false }) ∧
    (∃ t h, exec .zcf s = .next t ∧ s.Kept t noReg nowhere ∧ t.pc = s.pc ∧
      t.f = { s.f with c := !s.f.z, h := h, n := false })

/-- For a bit number within the register RES, SET and CHG make that bit 0, 1 or its inverse and
change no flag; BIT sets Z to the inverse of the bit, H to 1 and N to 0, keeps C and leaves S
and V open; TSET does the same and then sets the bit. These five with bit 8 to 15 of a byte
register are no well-formed instructions. STCF with the number given or in A makes the bit C
and changes no flag; a bit the register does not have changes nothing. Nothing else changes.
(R171, R179, R180, R181, R182, R183, R186, R187.) -/
def Obligations.BitRegisterForms : Prop :=
  ∀ (s : State) (sz : Size) (n : BitVec 4) (r : RegOp) (d : Slot), s.regSlot sz r = .next d →
    let v := s.slot sz d
    let sets (i : Instr) (num : Nat) (b : Bool) : Prop :=
      ∃ t x, exec i s = .next t ∧ s.SetsReg t sz d x ∧ t.f = s.f ∧
        ∀ k, k < sz.bits → x.getLsbD k = if k = num then b else v.getLsbD k
    let tested (f : Flags) : Prop :=
      f.z = !v.getLsbD n.toNat ∧ f.h = true ∧ f.n = false ∧ f.c = s.f.c
    sets (.stcfNr sz n r) n.toNat s.f.c ∧ sets (.stcfAr sz r) (s.regA.toNat % 16) s.f.c ∧
    (n.toNat < sz.bits →
      sets (.resNr sz n r) n.toNat false ∧ sets (.setNr sz n r) n.toNat true ∧
      sets (.chgNr sz n r) n.toNat (!v.getLsbD n.toNat) ∧
      (∃ t, exec (.bitNr sz n r) s = .next t ∧ s.Kept t noReg nowhere ∧ t.pc = s.pc ∧
        tested t.f) ∧
      (∃ t x, exec (.tsetNr sz n r) s = .next t ∧ s.SetsReg t sz d x ∧ tested t.f ∧
        ∀ k, k < sz.bits → x.getLsbD k = if k = n.toNat then true else v.getLsbD k)) ∧
    (sz.bits ≤ n.toNat →
      ∀ i ∈ [Instr.resNr sz n r, .setNr sz n r, .chgNr sz n r, .bitNr sz n r, .tsetNr sz n r],
        WellFormed i = false)

/-- RES, SET, CHG and STCF make the named bit of the byte at the effective address 0, 1, its
inverse or C, and change no flag (a bit number 8 to 15 in A changes nothing; whether the byte
is written then is log 42); BIT sets Z to the inverse of the bit, H to 1 and N to 0, keeps C
and leaves S and V open; TSET does the same and then sets the bit; nothing else changes but a
stepped register. In STCF A,(mem) with a (-r32) that steps XWA, A is read after the decrement,
an order that is the model's (log 30). (R171, R179, R180, R181, R182, R183, R186.) -/
def Obligations.BitMemoryForms : Prop :=
  ∀ (s : State) (n : BitVec 3) (m : MemOp) (e : Eff), Memory.wf s.mem = true →
    s.eff m = .next e →
    let v := (s.preStep e).byte e.addr
    let sets (i : Instr) (num : Nat) (b : Bool) : Prop :=
      ∃ t x, exec i s = .next t ∧ s.SetsMem t .B e x ∧ t.f = s.f ∧
        ∀ k, k < 8 → x.getLsbD k = if k = num then b else v.getLsbD k
    let tested (f : Flags) : Prop :=
      f.z = !v.getLsbD n.toNat ∧ f.h = true ∧ f.n = false ∧ f.c = s.f.c
    sets (.resNm n m) n.toNat false ∧ sets (.setNm n m) n.toNat true ∧
    sets (.chgNm n m) n.toNat (!v.getLsbD n.toNat) ∧ sets (.stcfNm n m) n.toNat s.f.c ∧
    sets (.stcfAm m) ((s.preStep e).regA.toNat % 16) s.f.c ∧
    (∃ t, exec (.bitNm n m) s = .next t ∧ s.ReadsMem t e ∧ tested t.f) ∧
    (∃ t x, exec (.tsetNm n m) s = .next t ∧ s.SetsMem t .B e x ∧ tested t.f ∧
      ∀ k, k < 8 → x.getLsbD k = if k = n.toNat then true else v.getLsbD k)

/-- For a word register that is not 0, BS1F writes to A the least bit number that is 1 and BS1B
the greatest, with V cleared; for 0 both set V and leave A open; the other flags, every other
register and memory are kept. (R184, R185.) -/
def Obligations.BitSearchForms : Prop :=
  ∀ (s : State) (r : RegOp) (a : Slot), s.regSlot .W r = .next a →
    let v := s.slot .W a
    let finds (i : Instr) (first : Nat → Nat → Prop) : Prop :=
      ∃ t x, exec i s = .next t ∧ s.SetsReg t .B (s.curSlot .xwa) x ∧
        t.f = { s.f with v := decide (v = 0) } ∧
        (v ≠ 0 → v.getLsbD x.toNat = true ∧
          ∀ k, k < 16 → v.getLsbD k = true → k = x.toNat ∨ first x.toNat k)
    finds (.bs1f r) (fun x k => x < k) ∧ finds (.bs1b r) (fun x k => k < x)

/-- MUL and MULS of register, immediate and memory forms write to the double-width destination the
unsigned or signed product of its lower half and the source, and change no flag and nothing
else but a stepped register. In the memory forms, where the mode steps the destination itself,
which U30 would refuse, the model's choice is that the instruction runs with that register
open and only the flags and the frame are said (log 27). (R142, R143.) -/
def Obligations.MultiplyForms : Prop :=
  ∀ (s : State) (sz : Size) (R : BitVec 3) (r : RegOp) (d a : Slot), sz ≠ .L →
    (∀ q ∈ [(Instr.mulRr, Instr.mulrrI, Instr.mulRm, fun (a b : BitVec sz.bits) =>
          ((a.toNat : Int) * b.toNat)),
        (.mulsRr, .mulsrrI, .mulsRm, fun a b => a.toInt * b.toInt)],
      (s.shortDouble sz R = .next d → s.regSlot sz r = .next a →
        ∃ t, exec (q.1 sz R r) s = .next t ∧ t.f = s.f ∧
          s.SetsReg t sz.double d (BitVec.ofInt _ (q.2.2.2 (s.slot sz d) (s.slot sz a)))) ∧
      (∀ imm, s.regDouble sz r = .next d →
        ∃ t, exec (q.2.1 sz r imm) s = .next t ∧ t.f = s.f ∧
          s.SetsReg t sz.double d (BitVec.ofInt _ (q.2.2.2 (s.slot sz d) imm))) ∧
      (∀ (m : MemOp) (e : Eff), s.shortDouble sz R = .next d → s.eff m = .next e →
        ∃ t, exec (q.2.2.1 sz R m) s = .next t ∧ t.f = s.f ∧
          s.LoadsReg t sz.double e d (BitVec.ofInt _ (q.2.2.2 ((s.preStep e).slot sz d)
            ((s.preStep e).memRead sz e.addr))) nowhere))

/-- DIV and DIVS of register, immediate and memory forms write remainder above quotient to the
double-width destination with V cleared, or, where the divisor is 0 or the quotient does not
fit, set V with the destination open; S, Z, H, N and C are kept and nothing else changes but a
stepped register. In the memory forms, where the mode steps the destination itself, which U30
would refuse, the model's choice is that the instruction runs with that register open and only
V, the other flags and the frame are said, the dividend being read after the decrement of
(-r32) (logs 27, 30). (R144, R145.) -/
def Obligations.DivideForms : Prop :=
  ∀ (s : State) (sz : Size) (R : BitVec 3) (r : RegOp) (d a : Slot), sz ≠ .L →
    (∀ q ∈ [(Instr.divRr, Instr.divrrI, Instr.divRm, false),
        (.divsRr, .divsrrI, .divsRm, true)],
      let ends (t : State) (x : Option (BitVec sz.double.bits)) (y : BitVec sz.double.bits) :=
        t.f = { s.f with v := x.isNone } ∧ ∀ v, x = some v → y = v
      (s.shortDouble sz R = .next d → s.regSlot sz r = .next a →
        ∃ t y, exec (q.1 sz R r) s = .next t ∧ s.SetsReg t sz.double d y ∧
          ends t (quotient q.2.2.2 sz (s.slot sz.double d) (s.slot sz a)) y) ∧
      (∀ imm, s.regDouble sz r = .next d →
        ∃ t y, exec (q.2.1 sz r imm) s = .next t ∧ s.SetsReg t sz.double d y ∧
          ends t (quotient q.2.2.2 sz (s.slot sz.double d) imm) y) ∧
      (∀ (m : MemOp) (e : Eff), s.shortDouble sz R = .next d → s.eff m = .next e →
        ∃ t y, exec (q.2.2.1 sz R m) s = .next t ∧ s.LoadsReg t sz.double e d y nowhere ∧
          ends t (quotient q.2.2.2 sz ((s.preStep e).slot sz.double d)
            ((s.preStep e).memRead sz e.addr)) y))

/-- In maximum mode MULA adds the signed product of the words at XDE and XHL to a long-word
register other than XHL, subtracts 2 from XHL, sets S and Z from the sum and V when the exact
sum does not fit 32 bits, and keeps H, N, C and everything else; that reading of V is the
model's (N41, log 28). With XHL as the destination, which U30 would refuse, the machine goes
on with XHL open, and S and Z follow that value: the model's choice (log 28). The second
factor is read after a draw, which matters only where it lies in I/O (log 2). (R146.) -/
def Obligations.MultiplyAddForm : Prop :=
  ∀ (s : State) (r : RegOp) (d : Slot), s.max = true → s.regSlot .L r = .next d →
    let xde := s.slot .L (s.curSlot .xde)
    let hl := s.curSlot .xhl
    let sum := (s.slot .L d).toInt +
      (s.memRead .W xde).toInt * ((s.drawn 1).memRead .W (s.slot .L hl)).toInt
    let v := decide (sum < -2 ^ 31 ∨ 2 ^ 31 ≤ sum)
    (d.reg ≠ hl.reg → ∃ t, exec (.mula r) s = .next t ∧
      t.slot .L d = BitVec.ofInt 32 sum ∧ t.slot .L hl = s.slot .L hl - 2 ∧
      t.f = { s.f with
        s := (BitVec.ofInt 32 sum).msb, z := decide (BitVec.ofInt 32 sum = 0), v := v } ∧
      s.Kept t (fun p => p = d.reg ∨ p = hl.reg) nowhere ∧ t.pc = s.pc) ∧
    (d.reg = hl.reg → ∃ t, exec (.mula r) s = .next t ∧
      t.f = { s.f with
        s := BitVec.msb (t.slot .L hl), z := decide (t.slot .L hl = 0), v := v } ∧
      s.Kept t (fun p => p = hl.reg) nowhere ∧ t.pc = s.pc)

/-- LD R,(mem) writes the operand at the effective address, low byte first, to its register, steps
the mode's register, and changes no flag, no other register and no byte of memory. Where the
mode steps the destination itself, which U30 would refuse, the model's choice is that the
instruction runs with that register open and only the flags and the frame are said (log 27).
(R13, R74, R75, R100.) -/
def Obligations.LoadFromMemoryForm : Prop :=
  ∀ (s : State) (sz : Size) (R : BitVec 3) (m : MemOp) (d : Slot) (e : Eff),
    s.shortSlot sz R = .next d → s.eff m = .next e →
    ∃ t, exec (.ldRm sz R m) s = .next t ∧ t.f = s.f ∧
      s.LoadsReg t sz e d ((s.preStep e).memRead sz e.addr) nowhere

/-- LD (mem) of an immediate, a register, or a byte or word at a 16-bit address, LD (#8) and LDX
of an immediate, and LD (#16),(mem) store the value low byte first at the address, as far as
the memory map has RAM there (log 2), and change nothing else but a stepped register. In LD
(mem),R with a (-r32) that steps R itself, R is read after the decrement, an order that is the
model's (log 30). (R43, R74, R75, R100, R199.) -/
def Obligations.StoreForms : Prop :=
  ∀ s : State, Memory.wf s.mem = true →
    let abs (a : Word32) : Eff := ⟨a, .none⟩
    (∀ a v, ∃ t, exec (.ldA8I8 a v) s = .next t ∧ s.SetsMem t .B (abs (a.setWidth 32)) v ∧
      t.f = s.f) ∧
    (∀ a v, ∃ t, exec (.ldwA8I16 a v) s = .next t ∧ s.SetsMem t .W (abs (a.setWidth 32)) v ∧
      t.f = s.f) ∧
    (∀ a v, s.product.ldxAvailable = true →
      ∃ t, exec (.ldx a v) s = .next t ∧ s.SetsMem t .B (abs (a.setWidth 32)) v ∧
        t.f = s.f) ∧
    ∀ (m : MemOp) (e : Eff), s.eff m = .next e → let u := s.preStep e
      (∀ v, ∃ t, exec (.ldmI8 m v) s = .next t ∧ s.SetsMem t .B e v ∧ t.f = s.f) ∧
      (∀ v, ∃ t, exec (.ldwmI16 m v) s = .next t ∧ s.SetsMem t .W e v ∧ t.f = s.f) ∧
      (∀ a, ∃ t, exec (.ldmA16 m a) s = .next t ∧
        s.SetsMem t .B e (u.memRead .B (a.setWidth 32)) ∧ t.f = s.f) ∧
      (∀ a, ∃ t, exec (.ldwmA16 m a) s = .next t ∧
        s.SetsMem t .W e (u.memRead .W (a.setWidth 32)) ∧ t.f = s.f) ∧
      (∀ R a, s.shortSlot .B R = .next a → ∃ t, exec (.ldmRB m R) s = .next t ∧
        s.SetsMem t .B e (u.slot .B a) ∧ t.f = s.f) ∧
      (∀ R a, s.shortSlot .W R = .next a → ∃ t, exec (.ldmRW m R) s = .next t ∧
        s.SetsMem t .W e (u.slot .W a) ∧ t.f = s.f) ∧
      (∀ R a, s.shortSlot .L R = .next a → ∃ t, exec (.ldmRL m R) s = .next t ∧
        s.SetsMem t .L e (u.slot .L a) ∧ t.f = s.f) ∧
      (∀ (sz : Size) (a : BitVec 16), ∃ t, exec (.ldA16m sz a m) s = .next t ∧ t.f = s.f ∧
        t.pc = s.pc ∧ s.Stored t sz (a.setWidth 32) (u.memRead sz e.addr) ∧ s.SteppedTo t e ∧
        s.Kept t e.stepsReg (touches sz (a.setWidth 32)))

/-- LDA writes the low 16 bits of the effective address to its word register or all 32 bits of the
sum to its long-word register, and reads no memory; that bits 31:24 are written as the sum has
them is decision D4, where R103 says that the source does not state it (log 20). With (-r32)
and (r32+) it is refused (NamedStops) unless the product's bareStep is free; it is then the
model's choice that the address is the decremented register or the register and that whether
the register steps is open (log 26), and where it is the destination itself only the frame is
said. (R103.) -/
def Obligations.LoadAddressForms : Prop :=
  ∀ (s : State) (R : BitVec 3) (m : MemOp) (e : Eff) (d : Slot), s.eff m = .next e →
    (e.stepping = .none ∨ s.product.bareStep = .free) →
    (∀ q ∈ [(Size.W, Instr.ldaW R m), (.L, .ldaL R m)], s.shortSlot q.1 R = .next d →
      ∃ t, exec q.2 s = .next t ∧ t.f = s.f ∧ t.pc = s.pc ∧
        s.Kept t (fun p => p = d.reg ∨ e.stepsReg p) nowhere ∧
        (¬ e.stepsReg d.reg → s.Wrote t q.1 d (e.addr.setWidth _) ∧
          (s.SteppedTo t e ∨ ∀ p, e.stepsReg p → t.reg p = s.reg p)))

/-- PUSH of SR, F, A, an immediate, a register or a memory operand stores the value at XSP minus
its size and leaves XSP there; the flags, every other register but a stepped one and every
other byte are kept. Of a part of XSP itself it is open, by the model's choice (log 29),
whether the value is the one before or after the decrement. That the address and the operand
of PUSH (mem) through XSP are taken before XSP moves is marked derived in R101 ("EA is
computed before XSP is decremented"), and that a (r32+) through XSP is stepped after the push
and a (-r32) before it is deduced from R74 and R75 (log 30). (R44, R74, R75, R101, R194.) -/
def Obligations.PushForms : Prop :=
  ∀ s : State, Memory.wf s.mem = true →
    let pushes (i : Instr) (sz : Size) (v : BitVec sz.bits) : Prop :=
      ∃ t, exec i s = .next t ∧ s.Pushes t sz v noReg ∧ t.f = s.f ∧ t.pc = s.pc ∧
        t.xsp = s.xsp - byteCount sz
    let pushesReg (i : Instr) (sz : Size) (a : Slot) : Prop :=
      (a.reg ≠ .fixed .xsp → pushes i sz (s.slot sz a)) ∧
      (a.reg = .fixed .xsp → pushes i sz (s.slot sz a) ∨
        pushes i sz (State.slot { s with xsp := s.xsp - byteCount sz } sz a))
    pushes .pushSR .W s.sr ∧ pushes .pushF .B s.f.byte ∧ pushes .pushA .B s.regA ∧
    (∀ v, pushes (.pushI8 v) .B v) ∧ (∀ v, pushes (.pushwI16 v) .W v) ∧
    (∀ R a, s.shortSlot .W R = .next a → pushesReg (.pushRW R) .W a) ∧
    (∀ R a, s.shortSlot .L R = .next a → pushesReg (.pushRL R) .L a) ∧
    (∀ sz r a, s.regSlot sz r = .next a → pushesReg (.pushr sz r) sz a) ∧
    (∀ (sz : Size) (m : MemOp) (e : Eff), s.eff m = .next e → let u := s.preStep e
      ∃ t, exec (.pushm sz m) s = .next t ∧ t.f = s.f ∧ t.pc = s.pc ∧
        u.Pushes t sz (u.memRead sz e.addr) e.stepsReg ∧
        (¬ e.stepsReg (.fixed .xsp) → t.xsp = u.xsp - byteCount sz ∧ s.SteppedTo t e) ∧
        (e.stepsReg (.fixed .xsp) → t.xsp = u.xsp - byteCount sz + e.increment))

/-- POP of A, F, a register or a memory operand loads the value at XSP and then adds its size to
XSP; POP F sets the six flags from the byte and every other form keeps them; every other
register but a stepped one and every other byte are kept. Into a part of XSP itself the
machine goes on, by the model's choice, with XSP open between the two results: that part
loaded over the incremented XSP, or the incremented XSP (log 29). That the address of POP
(mem) is taken before XSP moves is not stated by the source and the spec's own choice in R102
and U31 ("the spec computes EA first, then pops"), and that a (r32+) through XSP is stepped
after the pop and a (-r32) before it is deduced from R74 and R75 (log 30). (R44, R74, R75,
R102.) -/
def Obligations.PopForms : Prop :=
  ∀ s : State, Memory.wf s.mem = true →
    let pops (i : Instr) (sz : Size) (d : Slot) : Prop :=
      ∃ t, exec i s = .next t ∧ s.PopsReg t sz d (s.top sz) ∧ t.f = s.f
    pops .popA .B (s.curSlot .xwa) ∧
    exec .popF s = .next { s with
      xsp := s.xsp + 1
      f := Flags.ofByte (s.byte s.xsp) } ∧
    (∀ R d, s.shortSlot .W R = .next d → pops (.popRW R) .W d) ∧
    (∀ R d, s.shortSlot .L R = .next d → pops (.popRL R) .L d) ∧
    (∀ sz r d, s.regSlot sz r = .next d → pops (.popr sz r) sz d) ∧
    (∀ q ∈ [(Size.B, Instr.popm), (.W, .popwm)], ∀ (m : MemOp) (e : Eff),
      s.eff m = .next e → let u := s.preStep e
      ∃ t, exec (q.2 m) s = .next t ∧ t.f = s.f ∧ t.pc = s.pc ∧
        u.Stored t q.1 e.addr (u.top q.1) ∧
        u.Kept t (fun p => p = .fixed .xsp ∨ e.stepsReg p) (touches q.1 e.addr) ∧
        (¬ e.stepsReg (.fixed .xsp) → t.xsp = u.xsp + byteCount q.1 ∧ s.SteppedTo t e) ∧
        (e.stepsReg (.fixed .xsp) → t.xsp = u.xsp + byteCount q.1 + e.increment))

/-- For a long-word register other than XSP, LINK stores the register at XSP - 4, puts that
address in the register and that address plus d16 in XSP; UNLK loads the register from the
address it holds and leaves XSP 4 above that address; no flag and nothing else changes. With
XSP itself as the register, which U31 would refuse, it is the model's choice that the machine
goes on: LINK leaves XSP at the old value minus 4 plus d16 with the stored value left open,
and of UNLK only the flags, the pc and the frame are said (log 29). (R200, R201.) -/
def Obligations.LinkAndUnlinkForms : Prop :=
  ∀ (s : State) (r : RegOp) (a : Slot) (d16 : BitVec 16), Memory.wf s.mem = true →
    s.regSlot .L r = .next a →
    (∃ t, exec (.link r d16) s = .next t ∧ t.f = s.f ∧ t.pc = s.pc ∧
      t.xsp = s.xsp - 4 + d16.signExtend 32 ∧
      s.Kept t (fun p => p = a.reg ∨ p = .fixed .xsp) (touches .L (s.xsp - 4)) ∧
      (a.reg ≠ .fixed .xsp → t.slot .L a = s.xsp - 4 ∧
        s.Stored t .L (s.xsp - 4) (s.slot .L a))) ∧
    (∃ t, exec (.unlk r) s = .next t ∧ t.f = s.f ∧ t.pc = s.pc ∧
      s.Kept t (fun p => p = a.reg ∨ p = .fixed .xsp) nowhere ∧
      (a.reg ≠ .fixed .xsp → t.slot .L a = s.memRead .L (s.slot .L a) ∧
        t.xsp = s.slot .L a + 4))

/-- The element at the source pointer is stored at the destination pointer, both pointers move up
or down by the size, in minimum mode the 16-bit DE and HL with what lies above them kept, BC
goes down by 1 and the upper half of XBC is kept; LDI and LDD clear H and N and set V while BC
is not 0; LDIR and LDDR do the same when BC reaches 0 and otherwise keep F, put the pc back on
the instruction and go on with their next element, which the step then runs without a fetch, a
boundary after each element (decisions D11, D12, log 15); nothing else changes. (R13, R18,
R115, R116, R117, R118.) -/
def Obligations.BlockLoadForms : Prop :=
  ∀ (s : State) (sz : Size) (p : BlockPair), Memory.wf s.mem = true →
    let codes : BitVec 3 × BitVec 3 := match p with
      | .deHl => (2, 3)
      | .ixIy => (4, 5)
    let D := s.shortAddrReg codes.1
    let S := s.shortAddrReg codes.2
    let moved (t : State) (k : Word32) : Prop :=
      s.Stored t sz (s.addrValue D) (s.memRead sz (s.addrValue S)) ∧
      s.MovedBy t D k ∧ s.MovedBy t S k ∧ t.regBC = s.regBC - 1 ∧
      s.Wrote t .W (s.curSlot .xbc) (s.regBC - 1) ∧
      s.Kept { t with repeating := s.repeating }
        (fun p => p = D.reg ∨ p = S.reg ∨ p = (s.curSlot .xbc).reg) (touches sz (s.addrValue D))
    let ended (t : State) : Flags :=
      { s.f with h := false, n := false, v := decide (t.regBC ≠ 0) }
    (∀ q ∈ [(Instr.ldi, byteCount sz), (.ldd, - byteCount sz)],
      ∃ t, exec (q.1 sz p) s = .next t ∧ moved t q.2 ∧ t.f = ended t ∧ t.pc = s.pc ∧
        t.repeating = s.repeating) ∧
    (∀ q ∈ [(Instr.ldir, byteCount sz, Repeating.ldir sz p),
        (.lddr, - byteCount sz, .lddr sz p)],
      ∃ t, exec (q.1 sz p) s = .next t ∧ moved t q.2.1 ∧
        (s.regBC = 1 → t.f = ended t ∧ t.pc = s.pc ∧ t.repeating = s.repeating) ∧
        (s.regBC ≠ 1 → t.f = s.f ∧ t.pc = s.pcOf (s.pc - 2) ∧ t.repeating = some q.2.2))

/-- A or WA is compared with the element at the pointer, the pointer moves up or down by the size,
a 16-bit one of minimum mode with what lies above it kept, BC goes down by 1 and the upper
half of XBC is kept; S, Z and H are those of the comparison, V is set while BC is not 0, N is
1, C is kept; CPIR and CPDR write them when the element is equal or BC is 0 and otherwise keep
F, put the pc back on the instruction and go on with their next element, run without a fetch
(D11, D12, log 15); with XBC as the pointer BC takes both changes, the pointer's first, an
order that R119 marks as derived, and the upper half of XBC is that of the moved pointer in
maximum mode and kept in minimum mode; nothing else changes. (R13, R18, R119, R120, R121,
R122.) -/
def Obligations.BlockCompareForms : Prop :=
  ∀ (s : State) (sz : Size) (R : BitVec 3), sz ≠ .L →
    let P := s.shortAddrReg R
    let fl := (subFlags (s.slot sz (s.curSlot .xwa)) (s.memRead sz (s.addrValue P)) false false
      false).2
    let moved (t : State) (k : Word32) : Prop :=
      (R ≠ 1 → s.MovedBy t P k ∧ t.regBC = s.regBC - 1 ∧
        s.Wrote t .W (s.curSlot .xbc) (s.regBC - 1)) ∧
      (R = 1 → t.regBC = s.regBC + k.setWidth 16 - 1 ∧ ∀ i, 16 ≤ i →
        (t.reg P.reg).getLsbD i =
          (if P.narrow then s.reg P.reg else s.reg P.reg + k).getLsbD i) ∧
      s.Kept { t with repeating := s.repeating }
        (fun p => p = P.reg ∨ p = (s.curSlot .xbc).reg) nowhere
    let ended (t : State) : Flags :=
      { fl with v := decide (t.regBC ≠ 0), n := true, c := s.f.c }
    (∀ q ∈ [(Instr.cpi, byteCount sz), (.cpd, - byteCount sz)],
      ∃ t, exec (q.1 sz R) s = .next t ∧ moved t q.2 ∧ t.f = ended t ∧ t.pc = s.pc ∧
        t.repeating = s.repeating) ∧
    (∀ q ∈ [(Instr.cpir, byteCount sz, Repeating.cpir sz R),
        (.cpdr, - byteCount sz, .cpdr sz R)],
      ∃ t, exec (q.1 sz R) s = .next t ∧ moved t q.2.1 ∧
        (fl.z = true ∨ t.regBC = 0 → t.f = ended t ∧ t.pc = s.pc ∧ t.repeating = s.repeating) ∧
        (fl.z = false ∧ t.regBC ≠ 0 →
          t.f = s.f ∧ t.pc = s.pcOf (s.pc - 2) ∧ t.repeating = some q.2.2))

/-- JP to an absolute address always jumps; JR and JRL add their displacement to the pc after the
instruction when the condition holds; JP cc,mem jumps to the effective address when the
condition holds, without reading memory (with (-r32) and (r32+) it is refused, NamedStops,
unless the product's bareStep is free, and whether it then steps its register is open, log
26); DJNZ subtracts 1 from its register and jumps when the result is not 0. The pc has 32
bits, in minimum mode 16; no flag changes. (R28, R76, R230, R231, R232, R235.) -/
def Obligations.JumpForms : Prop :=
  ∀ s : State,
    (∀ a, exec (.jp16 a) s = .next { s with pc := a.setWidth 32 }) ∧
    (∀ a, exec (.jp24 a) s = .next { s with pc := s.pcOf (a.setWidth 32) }) ∧
    (∀ cc d, exec (.jr cc d) s =
      .next { s with pc := if s.f.holds cc then s.pcOf (s.pc + d.signExtend 32) else s.pc }) ∧
    (∀ cc d, exec (.jrl cc d) s =
      .next { s with pc := if s.f.holds cc then s.pcOf (s.pc + d.signExtend 32) else s.pc }) ∧
    (∀ (cc : Cond) (m : MemOp) (e : Eff), s.eff m = .next e →
      (e.stepping = .none ∨ s.product.bareStep = .free) →
      (s.f.holds cc = false → exec (.jpm cc m) s = .next s) ∧
      (s.f.holds cc = true → e.stepping = .none →
        exec (.jpm cc m) s = .next { s with pc := s.pcOf e.addr }) ∧
      (s.f.holds cc = true → ∃ t, exec (.jpm cc m) s = .next t ∧ t.pc = s.pcOf e.addr ∧
        t.f = s.f ∧ s.Kept t e.stepsReg nowhere ∧
        (s.SteppedTo t e ∨ ∀ p, e.stepsReg p → t.reg p = s.reg p))) ∧
    (∀ (sz : Size) (r : RegOp) (d8 : BitVec 8) (d : Slot), s.regSlot sz r = .next d →
      ∃ t, exec (.djnz sz r d8) s = .next t ∧ s.Wrote t sz d (s.slot sz d - 1) ∧
        s.Kept t (fun p => p = d.reg) nowhere ∧ t.f = s.f ∧
        t.pc = if s.slot sz d = 1 then s.pc else s.pcOf (s.pc + d8.signExtend 32))

/-- CALL and CALR push the pc, 4 bytes in maximum mode and 2 in minimum mode, and set it to the
absolute address, the pc plus d16, or the effective address; CALL cc,mem does so when its
condition holds and else does nothing (with (-r32) and (r32+) it is refused, NamedStops,
unless the product's bareStep is free; whether it then steps its register is open, XSP too,
which a (-r32) then steps before the push and a (r32+) after it, log 26). RET loads the pc
from XSP at that width and adds the size to XSP; RET cc does so when its condition holds and
else changes nothing; RETD adds the sign-extended d16 to XSP as well. No flag and nothing else
changes. That the address of CALL cc,mem through XSP is the one before XSP moves is marked
derived in R233 ("EA is computed before XSP is decremented [...] the source does not spell it
out"). (R28, R44, R233, R234, R236, R237.) -/
def Obligations.CallAndReturnForms : Prop :=
  ∀ s : State, Memory.wf s.mem = true →
    let calls (i : Instr) (target : Word32) : Prop :=
      ∃ t, exec i s = .next t ∧ s.Pushes t s.pcSize (s.pc.setWidth _) noReg ∧
        t.xsp = s.xsp - byteCount s.pcSize ∧ t.pc = s.pcOf target ∧ t.f = s.f
    s.pcSize = (if s.max then .L else .W) ∧
    (∀ a, calls (.call16 a) (a.setWidth 32)) ∧
    (∀ a, calls (.call24 a) (a.setWidth 32)) ∧
    (∀ d, calls (.calr d) (s.pc + d.signExtend 32)) ∧
    (∀ (cc : Cond) (m : MemOp) (e : Eff), s.eff m = .next e →
      (e.stepping = .none ∨ s.product.bareStep = .free) →
      (s.f.holds cc = false → exec (.callm cc m) s = .next s) ∧
      (s.f.holds cc = true → ¬ e.stepsReg (.fixed .xsp) → ∃ t, exec (.callm cc m) s = .next t ∧
        s.Pushes t s.pcSize (s.pc.setWidth _) e.stepsReg ∧ t.xsp = s.xsp - byteCount s.pcSize ∧
        t.pc = s.pcOf e.addr ∧ t.f = s.f ∧
        (s.SteppedTo t e ∨ ∀ p, e.stepsReg p → t.reg p = s.reg p)) ∧
      (s.f.holds cc = true → e.stepsReg (.fixed .xsp) → ∃ t u, exec (.callm cc m) s = .next t ∧
        (u = s ∧ t.xsp = u.xsp - byteCount s.pcSize ∨
          u = s.preStep e ∧ t.xsp = u.xsp - byteCount s.pcSize + e.increment) ∧
        u.Pushes t s.pcSize (s.pc.setWidth _) noReg ∧ t.pc = s.pcOf e.addr ∧ t.f = s.f)) ∧
    let n : Word32 := if s.max then 4 else 2
    let target : Word32 := if s.max then s.memRead .L s.xsp else (s.memRead .W s.xsp).setWidth 32
    exec .ret s = .next { s with pc := target, xsp := s.xsp + n } ∧
    (∀ d, exec (.retd d) s =
      .next { s with pc := target, xsp := s.xsp + n + d.signExtend 32 }) ∧
    (∀ cc, exec (.retcc cc) s =
      .next (if s.f.holds cc then { s with pc := target, xsp := s.xsp + n } else s))

/-- NOP changes nothing; EI writes its number and DI 7 to IFF; HALT sets the halted state; LDF
writes its number to RFP, INCF adds 1 and DECF subtracts 1, each modulo 8 in minimum mode and
with RFP2 held at 0 in maximum mode; nothing else changes. (R190, R192, R193, R197, R202,
R203, R204.) -/
def Obligations.ControlForms : Prop :=
  ∀ s : State,
    exec .nop s = .next s ∧ (∀ n, exec (.ei n) s = .next { s with iff := n }) ∧
    exec .di s = .next { s with iff := 7 } ∧ exec .halt s = .next { s with halted := true } ∧
    (∀ q ∈ [(fun _ : BitVec 3 => Instr.incf, fun _ : BitVec 3 => s.rfp + 1),
        (fun _ => .decf, fun _ => s.rfp - 1), (.ldf, fun n => n)], ∀ n : BitVec 3,
      ∃ t, exec (q.1 n) s = .next t ∧ t = { s with rfp := t.rfp } ∧
        t.rfp.toNat = if s.max then (q.2 n).toNat % 4 else (q.2 n).toNat)

/-- For a code of the product's control register map at the width that map gives the register (the
default map of reset is PRESUMED, log 5), LDC cr,r writes the general register to the control
register, keeps the other sixteen and everything else, and LDC r,cr writes the control
register to the general register and nothing else; no flag changes. (R29, R30, R198.) -/
def Obligations.ControlRegisterLoads : Prop :=
  ∀ (s : State) (sz : Size) (code : BitVec 8) (r : RegOp) (c : CReg) (d : Slot),
    s.product.crMap.codes.lookup code = some c → s.crWidth c = sz →
    s.regSlot sz r = .next d →
    (∃ t, exec (.ldcCr sz code r) s = .next t ∧
      t.creg c = (s.slot sz d).setWidth 32 ∧ (∀ c', c' ≠ c → t.creg c' = s.creg c') ∧
      t = { s with
        dmas := t.dmas
        dmad := t.dmad
        dmac := t.dmac
        dmam := t.dmam
        intnest := t.intnest }) ∧
    (∃ t, exec (.ldcR sz r code) s = .next t ∧ s.SetsReg t sz d ((s.creg c).setWidth _) ∧
      t.f = s.f)

/-- On a product with minimum mode MIN leaves MAX 0 and keeps bits 15:0 of the pc, the fixed
registers, IFF, RFP, F, F prime, the control registers and memory; that bits 31:16 of the pc
become 0 from maximum mode, which R17 states only from minimum to maximum mode, and that the
16-bit banked registers are then open are decision D27, marked in R191 (the model's choice,
log 9). (R17, R191.) -/
def Obligations.MinimumModeEntry : Prop :=
  ∀ s : State, s.product.minModeAvailable = true →
    ∃ t, exec .min s = .next t ∧ t.max = false ∧
      (s.max = true → t.pc = (s.pc.setWidth 16).setWidth 32) ∧ (s.max = false → t = s) ∧
      (∀ j, t.reg (.fixed j) = s.reg (.fixed j)) ∧ t.iff = s.iff ∧ t.rfp = s.rfp ∧
      t.f = s.f ∧ t.fAlt = s.fAlt ∧ t.dmas = s.dmas ∧ t.dmad = s.dmad ∧ t.dmac = s.dmac ∧
      t.dmam = s.dmam ∧ t.intnest = s.intnest ∧ t.halted = s.halted ∧
      t.repeating = s.repeating ∧ t.mem = s.mem ∧ t.offers = s.offers ∧ t.product = s.product

/-- POP SR loads IFF, MAX, RFP and the six flags from the word at XSP and moves XSP up by 2; RETI
loads them from there and the pc from XSP + 2 at the width of the mode before it, moves XSP
past both and subtracts 1 from INTNEST; where MAX does not change, the banked registers and
the rest of the state are kept; from minimum to maximum mode the low halves of banks 0 to 3
and bits 15:0 of the pc are kept and bits 31:16 of the pc become 0 (that overlay is the
model's choice, log 9). In maximum mode RFP2 becomes 0 whatever the word has, marked derived
for these two in R24, and bits 5 and 3 of the word are dropped (decision D15, log 22); from
maximum to minimum mode bits 31:16 of the pc become 0 too (decision D27, log 9). That the new
SR is effective at once, under any IFF before it, is decision D28 (log 33), where U19 makes
IFF 7 before POP SR a premise of the program. (R17, R20, R24, R195, R238.) -/
def Obligations.StatusRegisterIsRestored : Prop :=
  ∀ s : State,
    let x := s.memRead .W s.xsp
    let m := x.getLsbD 11
    let restored (t : State) (pc xsp nest : Word32) : Prop :=
      t.xsp = xsp ∧ t.max = m ∧ t.iff = x.extractLsb' 12 3 ∧
      t.rfp = (if m then x.extractLsb' 8 3 &&& 3 else x.extractLsb' 8 3) ∧
      t.f = Flags.ofByte (x.setWidth 8) ∧
      t.pc = (if m = s.max then pc else (pc.setWidth 16).setWidth 32) ∧
      t.intnest = nest ∧
      t.xix = s.xix ∧ t.xiy = s.xiy ∧ t.xiz = s.xiz ∧ t.fAlt = s.fAlt ∧ t.dmas = s.dmas ∧
      t.dmad = s.dmad ∧ t.dmac = s.dmac ∧ t.dmam = s.dmam ∧ t.halted = s.halted ∧
      t.repeating = s.repeating ∧ t.mem = s.mem ∧ t.offers = s.offers ∧ t.product = s.product ∧
      (m = s.max → t.banks = s.banks ∧ t.minBanks = s.minBanks) ∧
      (m = true → s.max = false → ∀ (n : BitVec 3) (k : BankedReg) (i : Nat), n.toNat < 4 →
        i < 16 → (t.reg (.bank n k)).getLsbD i = (s.reg (.bank n k)).getLsbD i)
    (m = true ∨ s.product.minModeAvailable = true) →
    (∃ t, exec .popSR s = .next t ∧ restored t s.pc (s.xsp + 2) s.intnest) ∧
    (∃ t, exec .reti s = .next t ∧
      restored t (s.pcOf ((s.memRead s.pcSize (s.xsp + 2)).setWidth 32))
        (s.xsp + 2 + byteCount s.pcSize) (s.crFit .intnest (s.intnest - 1)))

/-- SWI pushes the address of the next instruction at the width of the mode and SR below it, SR
first and each low byte first, adds 1 to INTNEST, keeps SR itself, IFF included, and loads the
pc from entry n of the vector table; every register but XSP and every byte outside the frame
are kept. That the entry is 4 bytes wide in maximum and 2 in minimum mode is decision D13,
which the spec marks as its own (log 21); the bytes of the frame are stored where the memory
map has RAM (log 2); that SR is stored first is the order of R196, where R55 names another one
(log 43). (R196, R252.) -/
def Obligations.SwiTakesItsVector : Prop :=
  ∀ (s : State) (n : BitVec 3), Memory.wf s.mem = true →
    ∃ t, exec (.swi n) s = .next t ∧ s.Enters t (n.setWidth 24) ∧ t.sr = s.sr ∧
      t.stores = s.stores ++ byteStores .W t.xsp s.sr ++
        byteStores s.pcSize (t.xsp + 2) (s.pc.setWidth _) ∧
      t.halted = s.halted ∧ t.repeating = s.repeating

/-- From a state that satisfies the invariant and has RAM under its stack frame, an entry by SWI
or by an interrupt of any level (which raises IFF) and then RETI restore the pc, SR with IFF,
RFP and the flags, XSP, INTNEST, every register and F prime; only bytes of the stack frame
differ. So it is for a handler that keeps memory, the registers, MAX and INTNEST and leaves
any pc, IFF, RFP and flags; the halted flag and the block instruction under way stay as the
handler has them. (R196, R238, R257, R258.) -/
def Obligations.ReturnFromEntryRestoresThePast : Prop :=
  ∀ (s : State) (V : BitVec 24), s.Inv →
    (∀ a, touches .W (s.xsp - byteCount s.pcSize - 2) a ∨
      touches s.pcSize (s.xsp - byteCount s.pcSize) a → s.area a = .ram) →
    let returns (u : State) : Prop :=
      ∃ t, exec .reti u = .next t ∧ t.pc = s.pc ∧ t.sr = s.sr ∧
        t.intnest = s.intnest ∧ (∀ p, t.reg p = s.reg p) ∧ t.fAlt = s.fAlt ∧
        t.halted = u.halted ∧ t.repeating = u.repeating ∧
        ∀ a, ¬ touches .W (s.xsp - byteCount s.pcSize - 2) a →
          ¬ touches s.pcSize (s.xsp - byteCount s.pcSize) a → t.cell a = s.cell a
    (∀ L : BitVec 3, returns (s.enterInterrupt L V)) ∧
    (∀ framed ∈ [s.saveSrThenPc, s.savePcThenSr],
      ∀ (pc : Word32) (i r : BitVec 3) (g : Flags) (h : Bool) (q : Option Repeating),
      returns { framed.enterException V with
        pc := pc
        iff := i
        rfp := r
        f := g
        halted := h
        repeating := q })

/-- A register code 40H to CFH in maximum mode is a fault as r or rr of every instruction that has
one (of LDC where the product has the control register), and as base, index or r32 of a memory
operand; a 32-bit banked register in minimum mode is a fault, and so is MULA in minimum mode;
clearing MAX on a product without minimum mode (MIN, and POP SR and RETI of such an SR), LDX
on a product without it, LDC of a code outside the product's map or at another width, and LDA,
JP and CALL with (-r32) or (r32+), whatever the condition, unless the product's bareStep is
free (a parameter of the model, log 26), are refused. Where the spec says only that these are
not described or cannot be used, the form of the stop is the model's (logs 6, 10, 19, 41).
(R7, R11, R66, R103, R146, R191, R195, R198, R199, R230, R233, R238.) -/
def Obligations.NamedStops : Prop :=
  ∀ (s : State),
    (∀ (sz : Size) (code : BitVec 8), s.max = true → 0x40 ≤ code.toNat → code.toNat < 0xD0 →
      let r : RegOp := .ext code
      let stops (i : Instr) : Prop := exec i s = .fault .undefinedRegisterCode
      s.regSlot sz r = .fault .undefinedRegisterCode ∧
      s.regDouble sz r = .fault .undefinedRegisterCode ∧
      (∀ v, ∀ i ∈ [Instr.ldrI sz r v, .mulrrI sz r v, .mulsrrI sz r v, .divrrI sz r v,
        .divsrrI sz r v], stops i) ∧
      (∀ i ∈ [Instr.pushr sz r, .popr sz r, .cplr sz r, .negr sz r, .unlk r, .bs1f r, .bs1b r,
        .daa r, .extz sz r, .exts sz r, .paa sz r, .mirr r, .mula r, .stcfAr sz r], stops i) ∧
      (∀ (n : BitVec 4), ∀ i ∈ [Instr.stcfNr sz n r, .resNr sz n r, .setNr sz n r, .chgNr sz n r,
        .bitNr sz n r, .tsetNr sz n r], stops i) ∧
      (∀ (R : BitVec 3), ∀ i ∈ [Instr.mulRr sz R r, .mulsRr sz R r, .divRr sz R r, .divsRr sz R r,
        .incNr sz R r, .decNr sz R r, .ldRr sz R r, .ldrR sz r R, .ldrN sz r R, .exRr sz R r,
        .cprN sz r R], stops i) ∧
      (∀ (v : BitVec 16), ∀ i ∈ [Instr.link r v, .minc1 v r, .minc2 v r, .minc4 v r, .mdec1 v r,
        .mdec2 v r, .mdec4 v r], stops i) ∧
      (∀ (d : BitVec 8) (cc : Cond), stops (.djnz sz r d) ∧ stops (.scc sz cc r)) ∧
      (∀ (op : AluOp) (R : BitVec 3) (v : BitVec sz.bits),
        stops (op.regReg sz R r) ∧ stops (op.regImm sz r v)) ∧
      (∀ (op : ShiftOp) (n : BitVec 4), stops (op.regImm sz n r) ∧ stops (op.regA sz r)) ∧
      (∀ (op : CarryOp) (n : BitVec 4), stops (op.regImm sz n r) ∧ stops (op.regA sz r)) ∧
      (∀ (cr : BitVec 8) (c : CReg), s.product.crMap.codes.lookup cr = some c →
        s.crWidth c = sz → stops (.ldcCr sz cr r) ∧ stops (.ldcR sz r cr)) ∧
      (∀ other : BitVec 8, ∀ m ∈ [MemOp.index8 code other, .index16 code other,
        .index8 other code, .index16 other code], s.eff m = .fault .undefinedRegisterCode)) ∧
    (∀ (r32 : BitVec 6) (d : BitVec 16) (st : Step), s.max = true → 0x10 ≤ r32.toNat →
      r32.toNat < 0x34 →
      ∀ m ∈ [MemOp.indExt r32, .disp16 r32 d, .preDec r32 st, .postInc r32 st],
        s.eff m = .fault .undefinedRegisterCode) ∧
    (∀ R : BitVec 3, s.max = false → R.toNat < 4 →
      s.regSlot .L (.short R) = .fault .bankedLongInMinimumMode ∧
      ∀ v, exec (.ldRI32 R v) s = .fault .bankedLongInMinimumMode) ∧
    (∀ r, s.max = false → exec (.mula r) s = .fault .bankedLongInMinimumMode) ∧
    (s.product.minModeAvailable = false →
      exec .min s = .refused .minimumModeNotAvailable ∧
      ((s.memRead .W s.xsp).getLsbD 11 = false →
        exec .popSR s = .refused .minimumModeNotAvailable ∧
        exec .reti s = .refused .minimumModeNotAvailable)) ∧
    (s.product.ldxAvailable = false → ∀ a v, exec (.ldx a v) s = .refused .ldxNotAvailable) ∧
    (∀ (sz : Size) (code : BitVec 8) (r : RegOp),
      (∀ c, s.product.crMap.codes.lookup code = some c → s.crWidth c ≠ sz) →
      exec (.ldcCr sz code r) s = .refused .controlRegisterNotDescribed ∧
      exec (.ldcR sz r code) s = .refused .controlRegisterNotDescribed) ∧
    (∀ (m : MemOp) (e : Eff) (R : BitVec 3) (cc : Cond), s.product.bareStep = .refused →
      s.eff m = .next e → e.stepping ≠ .none →
      exec (.jpm cc m) s = .refused .stepWithoutAccess ∧
      exec (.callm cc m) s = .refused .stepWithoutAccess ∧
      (∀ d, s.shortSlot .W R = .next d → exec (.ldaW R m) s = .refused .stepWithoutAccess) ∧
      (∀ d, s.shortSlot .L R = .next d → exec (.ldaL R m) s = .refused .stepWithoutAccess))
end

