-- ==== Sys2Proof/Laws/State.lean ====
section
/-!
SUPPORT. What each update of the state leaves alone: one lemma per field per update, and
the lemmas of `andThen`.
-/

namespace Sys2Proof.Machine

/-! ## Outcomes in sequence -/

@[simp] theorem andThen_next {α β : Type} (a : α) (k : α → Out β) :
    andThen (.next a) k = k a := rfl

@[simp] theorem andThen_fault {α β : Type} (e : Fault) (k : α → Out β) :
    andThen (.fault e : Out α) k = .fault e := rfl

@[simp] theorem andThen_refused {α β : Type} (e : Refusal) (k : α → Out β) :
    andThen (.refused e : Out α) k = .refused e := rfl

/-- All that a sequence ending in a next state can have done. -/
theorem andThen_eq_next {α β : Type} {x : Out α} {k : α → Out β} {b : β}
    (h : andThen x k = .next b) : ∃ a, x = .next a ∧ k a = .next b := by
  cases x with
  | next a => exact ⟨a, rfl, h⟩
  | fault e => cases h
  | refused e => cases h

/-! ## Registers -/

@[simp] theorem setReg_pc (s : State) (p : PReg) (v : Word32) :
    (s.setReg p v).pc = s.pc := by
  cases p with
  | bank n k => simp only [State.setReg]; split <;> rfl
  | fixed j => cases j <;> rfl

@[simp] theorem setReg_f (s : State) (p : PReg) (v : Word32) :
    (s.setReg p v).f = s.f := by
  cases p with
  | bank n k => simp only [State.setReg]; split <;> rfl
  | fixed j => cases j <;> rfl

@[simp] theorem setReg_fAlt (s : State) (p : PReg) (v : Word32) :
    (s.setReg p v).fAlt = s.fAlt := by
  cases p with
  | bank n k => simp only [State.setReg]; split <;> rfl
  | fixed j => cases j <;> rfl

@[simp] theorem setReg_iff (s : State) (p : PReg) (v : Word32) :
    (s.setReg p v).iff = s.iff := by
  cases p with
  | bank n k => simp only [State.setReg]; split <;> rfl
  | fixed j => cases j <;> rfl

@[simp] theorem setReg_max (s : State) (p : PReg) (v : Word32) :
    (s.setReg p v).max = s.max := by
  cases p with
  | bank n k => simp only [State.setReg]; split <;> rfl
  | fixed j => cases j <;> rfl

@[simp] theorem setReg_rfp (s : State) (p : PReg) (v : Word32) :
    (s.setReg p v).rfp = s.rfp := by
  cases p with
  | bank n k => simp only [State.setReg]; split <;> rfl
  | fixed j => cases j <;> rfl

@[simp] theorem setReg_dmas (s : State) (p : PReg) (v : Word32) :
    (s.setReg p v).dmas = s.dmas := by
  cases p with
  | bank n k => simp only [State.setReg]; split <;> rfl
  | fixed j => cases j <;> rfl

@[simp] theorem setReg_dmad (s : State) (p : PReg) (v : Word32) :
    (s.setReg p v).dmad = s.dmad := by
  cases p with
  | bank n k => simp only [State.setReg]; split <;> rfl
  | fixed j => cases j <;> rfl

@[simp] theorem setReg_dmac (s : State) (p : PReg) (v : Word32) :
    (s.setReg p v).dmac = s.dmac := by
  cases p with
  | bank n k => simp only [State.setReg]; split <;> rfl
  | fixed j => cases j <;> rfl

@[simp] theorem setReg_dmam (s : State) (p : PReg) (v : Word32) :
    (s.setReg p v).dmam = s.dmam := by
  cases p with
  | bank n k => simp only [State.setReg]; split <;> rfl
  | fixed j => cases j <;> rfl

@[simp] theorem setReg_intnest (s : State) (p : PReg) (v : Word32) :
    (s.setReg p v).intnest = s.intnest := by
  cases p with
  | bank n k => simp only [State.setReg]; split <;> rfl
  | fixed j => cases j <;> rfl

@[simp] theorem setReg_halted (s : State) (p : PReg) (v : Word32) :
    (s.setReg p v).halted = s.halted := by
  cases p with
  | bank n k => simp only [State.setReg]; split <;> rfl
  | fixed j => cases j <;> rfl

@[simp] theorem setReg_repeating (s : State) (p : PReg) (v : Word32) :
    (s.setReg p v).repeating = s.repeating := by
  cases p with
  | bank n k => simp only [State.setReg]; split <;> rfl
  | fixed j => cases j <;> rfl

@[simp] theorem setReg_mem (s : State) (p : PReg) (v : Word32) :
    (s.setReg p v).mem = s.mem := by
  cases p with
  | bank n k => simp only [State.setReg]; split <;> rfl
  | fixed j => cases j <;> rfl

@[simp] theorem setReg_offers (s : State) (p : PReg) (v : Word32) :
    (s.setReg p v).offers = s.offers := by
  cases p with
  | bank n k => simp only [State.setReg]; split <;> rfl
  | fixed j => cases j <;> rfl

@[simp] theorem setReg_draws (s : State) (p : PReg) (v : Word32) :
    (s.setReg p v).draws = s.draws := by
  cases p with
  | bank n k => simp only [State.setReg]; split <;> rfl
  | fixed j => cases j <;> rfl

@[simp] theorem setReg_stores (s : State) (p : PReg) (v : Word32) :
    (s.setReg p v).stores = s.stores := by
  cases p with
  | bank n k => simp only [State.setReg]; split <;> rfl
  | fixed j => cases j <;> rfl

@[simp] theorem setReg_product (s : State) (p : PReg) (v : Word32) :
    (s.setReg p v).product = s.product := by
  cases p with
  | bank n k => simp only [State.setReg]; split <;> rfl
  | fixed j => cases j <;> rfl

@[simp] theorem setSlot_pc (s : State) (sz : Size) (d : Slot) (v : BitVec sz.bits) :
    (s.setSlot sz d v).pc = s.pc := setReg_pc ..

@[simp] theorem setSlot_f (s : State) (sz : Size) (d : Slot) (v : BitVec sz.bits) :
    (s.setSlot sz d v).f = s.f := setReg_f ..

@[simp] theorem setSlot_fAlt (s : State) (sz : Size) (d : Slot) (v : BitVec sz.bits) :
    (s.setSlot sz d v).fAlt = s.fAlt := setReg_fAlt ..

@[simp] theorem setSlot_iff (s : State) (sz : Size) (d : Slot) (v : BitVec sz.bits) :
    (s.setSlot sz d v).iff = s.iff := setReg_iff ..

@[simp] theorem setSlot_max (s : State) (sz : Size) (d : Slot) (v : BitVec sz.bits) :
    (s.setSlot sz d v).max = s.max := setReg_max ..

@[simp] theorem setSlot_rfp (s : State) (sz : Size) (d : Slot) (v : BitVec sz.bits) :
    (s.setSlot sz d v).rfp = s.rfp := setReg_rfp ..

@[simp] theorem setSlot_dmas (s : State) (sz : Size) (d : Slot) (v : BitVec sz.bits) :
    (s.setSlot sz d v).dmas = s.dmas := setReg_dmas ..

@[simp] theorem setSlot_dmad (s : State) (sz : Size) (d : Slot) (v : BitVec sz.bits) :
    (s.setSlot sz d v).dmad = s.dmad := setReg_dmad ..

@[simp] theorem setSlot_dmac (s : State) (sz : Size) (d : Slot) (v : BitVec sz.bits) :
    (s.setSlot sz d v).dmac = s.dmac := setReg_dmac ..

@[simp] theorem setSlot_dmam (s : State) (sz : Size) (d : Slot) (v : BitVec sz.bits) :
    (s.setSlot sz d v).dmam = s.dmam := setReg_dmam ..

@[simp] theorem setSlot_intnest (s : State) (sz : Size) (d : Slot) (v : BitVec sz.bits) :
    (s.setSlot sz d v).intnest = s.intnest := setReg_intnest ..

@[simp] theorem setSlot_halted (s : State) (sz : Size) (d : Slot) (v : BitVec sz.bits) :
    (s.setSlot sz d v).halted = s.halted := setReg_halted ..

@[simp] theorem setSlot_repeating (s : State) (sz : Size) (d : Slot) (v : BitVec sz.bits) :
    (s.setSlot sz d v).repeating = s.repeating := setReg_repeating ..

@[simp] theorem setSlot_mem (s : State) (sz : Size) (d : Slot) (v : BitVec sz.bits) :
    (s.setSlot sz d v).mem = s.mem := setReg_mem ..

@[simp] theorem setSlot_offers (s : State) (sz : Size) (d : Slot) (v : BitVec sz.bits) :
    (s.setSlot sz d v).offers = s.offers := setReg_offers ..

@[simp] theorem setSlot_draws (s : State) (sz : Size) (d : Slot) (v : BitVec sz.bits) :
    (s.setSlot sz d v).draws = s.draws := setReg_draws ..

@[simp] theorem setSlot_stores (s : State) (sz : Size) (d : Slot) (v : BitVec sz.bits) :
    (s.setSlot sz d v).stores = s.stores := setReg_stores ..

@[simp] theorem setSlot_product (s : State) (sz : Size) (d : Slot) (v : BitVec sz.bits) :
    (s.setSlot sz d v).product = s.product := setReg_product ..

@[simp] theorem setRegA_pc (s : State) (v : BitVec 8) :
    (s.setRegA v).pc = s.pc := setReg_pc ..

@[simp] theorem setRegA_f (s : State) (v : BitVec 8) :
    (s.setRegA v).f = s.f := setReg_f ..

@[simp] theorem setRegA_fAlt (s : State) (v : BitVec 8) :
    (s.setRegA v).fAlt = s.fAlt := setReg_fAlt ..

@[simp] theorem setRegA_iff (s : State) (v : BitVec 8) :
    (s.setRegA v).iff = s.iff := setReg_iff ..

@[simp] theorem setRegA_max (s : State) (v : BitVec 8) :
    (s.setRegA v).max = s.max := setReg_max ..

@[simp] theorem setRegA_rfp (s : State) (v : BitVec 8) :
    (s.setRegA v).rfp = s.rfp := setReg_rfp ..

@[simp] theorem setRegA_dmas (s : State) (v : BitVec 8) :
    (s.setRegA v).dmas = s.dmas := setReg_dmas ..

@[simp] theorem setRegA_dmad (s : State) (v : BitVec 8) :
    (s.setRegA v).dmad = s.dmad := setReg_dmad ..

@[simp] theorem setRegA_dmac (s : State) (v : BitVec 8) :
    (s.setRegA v).dmac = s.dmac := setReg_dmac ..

@[simp] theorem setRegA_dmam (s : State) (v : BitVec 8) :
    (s.setRegA v).dmam = s.dmam := setReg_dmam ..

@[simp] theorem setRegA_intnest (s : State) (v : BitVec 8) :
    (s.setRegA v).intnest = s.intnest := setReg_intnest ..

@[simp] theorem setRegA_halted (s : State) (v : BitVec 8) :
    (s.setRegA v).halted = s.halted := setReg_halted ..

@[simp] theorem setRegA_repeating (s : State) (v : BitVec 8) :
    (s.setRegA v).repeating = s.repeating := setReg_repeating ..

@[simp] theorem setRegA_mem (s : State) (v : BitVec 8) :
    (s.setRegA v).mem = s.mem := setReg_mem ..

@[simp] theorem setRegA_offers (s : State) (v : BitVec 8) :
    (s.setRegA v).offers = s.offers := setReg_offers ..

@[simp] theorem setRegA_draws (s : State) (v : BitVec 8) :
    (s.setRegA v).draws = s.draws := setReg_draws ..

@[simp] theorem setRegA_stores (s : State) (v : BitVec 8) :
    (s.setRegA v).stores = s.stores := setReg_stores ..

@[simp] theorem setRegA_product (s : State) (v : BitVec 8) :
    (s.setRegA v).product = s.product := setReg_product ..

@[simp] theorem setRegBC_pc (s : State) (v : BitVec 16) :
    (s.setRegBC v).pc = s.pc := setReg_pc ..

@[simp] theorem setRegBC_f (s : State) (v : BitVec 16) :
    (s.setRegBC v).f = s.f := setReg_f ..

@[simp] theorem setRegBC_fAlt (s : State) (v : BitVec 16) :
    (s.setRegBC v).fAlt = s.fAlt := setReg_fAlt ..

@[simp] theorem setRegBC_iff (s : State) (v : BitVec 16) :
    (s.setRegBC v).iff = s.iff := setReg_iff ..

@[simp] theorem setRegBC_max (s : State) (v : BitVec 16) :
    (s.setRegBC v).max = s.max := setReg_max ..

@[simp] theorem setRegBC_rfp (s : State) (v : BitVec 16) :
    (s.setRegBC v).rfp = s.rfp := setReg_rfp ..

@[simp] theorem setRegBC_dmas (s : State) (v : BitVec 16) :
    (s.setRegBC v).dmas = s.dmas := setReg_dmas ..

@[simp] theorem setRegBC_dmad (s : State) (v : BitVec 16) :
    (s.setRegBC v).dmad = s.dmad := setReg_dmad ..

@[simp] theorem setRegBC_dmac (s : State) (v : BitVec 16) :
    (s.setRegBC v).dmac = s.dmac := setReg_dmac ..

@[simp] theorem setRegBC_dmam (s : State) (v : BitVec 16) :
    (s.setRegBC v).dmam = s.dmam := setReg_dmam ..

@[simp] theorem setRegBC_intnest (s : State) (v : BitVec 16) :
    (s.setRegBC v).intnest = s.intnest := setReg_intnest ..

@[simp] theorem setRegBC_halted (s : State) (v : BitVec 16) :
    (s.setRegBC v).halted = s.halted := setReg_halted ..

@[simp] theorem setRegBC_repeating (s : State) (v : BitVec 16) :
    (s.setRegBC v).repeating = s.repeating := setReg_repeating ..

@[simp] theorem setRegBC_mem (s : State) (v : BitVec 16) :
    (s.setRegBC v).mem = s.mem := setReg_mem ..

@[simp] theorem setRegBC_offers (s : State) (v : BitVec 16) :
    (s.setRegBC v).offers = s.offers := setReg_offers ..

@[simp] theorem setRegBC_draws (s : State) (v : BitVec 16) :
    (s.setRegBC v).draws = s.draws := setReg_draws ..

@[simp] theorem setRegBC_stores (s : State) (v : BitVec 16) :
    (s.setRegBC v).stores = s.stores := setReg_stores ..

@[simp] theorem setRegBC_product (s : State) (v : BitVec 16) :
    (s.setRegBC v).product = s.product := setReg_product ..

@[simp] theorem setAddrReg_pc (s : State) (r : AddrReg) (v : Word32) :
    (s.setAddrReg r v).pc = s.pc := by
  unfold State.setAddrReg; split <;> simp

@[simp] theorem setAddrReg_f (s : State) (r : AddrReg) (v : Word32) :
    (s.setAddrReg r v).f = s.f := by
  unfold State.setAddrReg; split <;> simp

@[simp] theorem setAddrReg_fAlt (s : State) (r : AddrReg) (v : Word32) :
    (s.setAddrReg r v).fAlt = s.fAlt := by
  unfold State.setAddrReg; split <;> simp

@[simp] theorem setAddrReg_iff (s : State) (r : AddrReg) (v : Word32) :
    (s.setAddrReg r v).iff = s.iff := by
  unfold State.setAddrReg; split <;> simp

@[simp] theorem setAddrReg_max (s : State) (r : AddrReg) (v : Word32) :
    (s.setAddrReg r v).max = s.max := by
  unfold State.setAddrReg; split <;> simp

@[simp] theorem setAddrReg_rfp (s : State) (r : AddrReg) (v : Word32) :
    (s.setAddrReg r v).rfp = s.rfp := by
  unfold State.setAddrReg; split <;> simp

@[simp] theorem setAddrReg_dmas (s : State) (r : AddrReg) (v : Word32) :
    (s.setAddrReg r v).dmas = s.dmas := by
  unfold State.setAddrReg; split <;> simp

@[simp] theorem setAddrReg_dmad (s : State) (r : AddrReg) (v : Word32) :
    (s.setAddrReg r v).dmad = s.dmad := by
  unfold State.setAddrReg; split <;> simp

@[simp] theorem setAddrReg_dmac (s : State) (r : AddrReg) (v : Word32) :
    (s.setAddrReg r v).dmac = s.dmac := by
  unfold State.setAddrReg; split <;> simp

@[simp] theorem setAddrReg_dmam (s : State) (r : AddrReg) (v : Word32) :
    (s.setAddrReg r v).dmam = s.dmam := by
  unfold State.setAddrReg; split <;> simp

@[simp] theorem setAddrReg_intnest (s : State) (r : AddrReg) (v : Word32) :
    (s.setAddrReg r v).intnest = s.intnest := by
  unfold State.setAddrReg; split <;> simp

@[simp] theorem setAddrReg_halted (s : State) (r : AddrReg) (v : Word32) :
    (s.setAddrReg r v).halted = s.halted := by
  unfold State.setAddrReg; split <;> simp

@[simp] theorem setAddrReg_repeating (s : State) (r : AddrReg) (v : Word32) :
    (s.setAddrReg r v).repeating = s.repeating := by
  unfold State.setAddrReg; split <;> simp

@[simp] theorem setAddrReg_mem (s : State) (r : AddrReg) (v : Word32) :
    (s.setAddrReg r v).mem = s.mem := by
  unfold State.setAddrReg; split <;> simp

@[simp] theorem setAddrReg_offers (s : State) (r : AddrReg) (v : Word32) :
    (s.setAddrReg r v).offers = s.offers := by
  unfold State.setAddrReg; split <;> simp

@[simp] theorem setAddrReg_draws (s : State) (r : AddrReg) (v : Word32) :
    (s.setAddrReg r v).draws = s.draws := by
  unfold State.setAddrReg; split <;> simp

@[simp] theorem setAddrReg_stores (s : State) (r : AddrReg) (v : Word32) :
    (s.setAddrReg r v).stores = s.stores := by
  unfold State.setAddrReg; split <;> simp

@[simp] theorem setAddrReg_product (s : State) (r : AddrReg) (v : Word32) :
    (s.setAddrReg r v).product = s.product := by
  unfold State.setAddrReg; split <;> simp

@[simp] theorem stepAddrReg_pc (s : State) (r : AddrReg) (d : Word32) :
    (s.stepAddrReg r d).pc = s.pc := setAddrReg_pc ..

@[simp] theorem stepAddrReg_f (s : State) (r : AddrReg) (d : Word32) :
    (s.stepAddrReg r d).f = s.f := setAddrReg_f ..

@[simp] theorem stepAddrReg_fAlt (s : State) (r : AddrReg) (d : Word32) :
    (s.stepAddrReg r d).fAlt = s.fAlt := setAddrReg_fAlt ..

@[simp] theorem stepAddrReg_iff (s : State) (r : AddrReg) (d : Word32) :
    (s.stepAddrReg r d).iff = s.iff := setAddrReg_iff ..

@[simp] theorem stepAddrReg_max (s : State) (r : AddrReg) (d : Word32) :
    (s.stepAddrReg r d).max = s.max := setAddrReg_max ..

@[simp] theorem stepAddrReg_rfp (s : State) (r : AddrReg) (d : Word32) :
    (s.stepAddrReg r d).rfp = s.rfp := setAddrReg_rfp ..

@[simp] theorem stepAddrReg_dmas (s : State) (r : AddrReg) (d : Word32) :
    (s.stepAddrReg r d).dmas = s.dmas := setAddrReg_dmas ..

@[simp] theorem stepAddrReg_dmad (s : State) (r : AddrReg) (d : Word32) :
    (s.stepAddrReg r d).dmad = s.dmad := setAddrReg_dmad ..

@[simp] theorem stepAddrReg_dmac (s : State) (r : AddrReg) (d : Word32) :
    (s.stepAddrReg r d).dmac = s.dmac := setAddrReg_dmac ..

@[simp] theorem stepAddrReg_dmam (s : State) (r : AddrReg) (d : Word32) :
    (s.stepAddrReg r d).dmam = s.dmam := setAddrReg_dmam ..

@[simp] theorem stepAddrReg_intnest (s : State) (r : AddrReg) (d : Word32) :
    (s.stepAddrReg r d).intnest = s.intnest := setAddrReg_intnest ..

@[simp] theorem stepAddrReg_halted (s : State) (r : AddrReg) (d : Word32) :
    (s.stepAddrReg r d).halted = s.halted := setAddrReg_halted ..

@[simp] theorem stepAddrReg_repeating (s : State) (r : AddrReg) (d : Word32) :
    (s.stepAddrReg r d).repeating = s.repeating := setAddrReg_repeating ..

@[simp] theorem stepAddrReg_mem (s : State) (r : AddrReg) (d : Word32) :
    (s.stepAddrReg r d).mem = s.mem := setAddrReg_mem ..

@[simp] theorem stepAddrReg_offers (s : State) (r : AddrReg) (d : Word32) :
    (s.stepAddrReg r d).offers = s.offers := setAddrReg_offers ..

@[simp] theorem stepAddrReg_draws (s : State) (r : AddrReg) (d : Word32) :
    (s.stepAddrReg r d).draws = s.draws := setAddrReg_draws ..

@[simp] theorem stepAddrReg_stores (s : State) (r : AddrReg) (d : Word32) :
    (s.stepAddrReg r d).stores = s.stores := setAddrReg_stores ..

@[simp] theorem stepAddrReg_product (s : State) (r : AddrReg) (d : Word32) :
    (s.stepAddrReg r d).product = s.product := setAddrReg_product ..

@[simp] theorem preStep_pc (s : State) (e : Eff) :
    (s.preStep e).pc = s.pc := by
  unfold State.preStep; split <;> simp

@[simp] theorem preStep_f (s : State) (e : Eff) :
    (s.preStep e).f = s.f := by
  unfold State.preStep; split <;> simp

@[simp] theorem preStep_fAlt (s : State) (e : Eff) :
    (s.preStep e).fAlt = s.fAlt := by
  unfold State.preStep; split <;> simp

@[simp] theorem preStep_iff (s : State) (e : Eff) :
    (s.preStep e).iff = s.iff := by
  unfold State.preStep; split <;> simp

@[simp] theorem preStep_max (s : State) (e : Eff) :
    (s.preStep e).max = s.max := by
  unfold State.preStep; split <;> simp

@[simp] theorem preStep_rfp (s : State) (e : Eff) :
    (s.preStep e).rfp = s.rfp := by
  unfold State.preStep; split <;> simp

@[simp] theorem preStep_dmas (s : State) (e : Eff) :
    (s.preStep e).dmas = s.dmas := by
  unfold State.preStep; split <;> simp

@[simp] theorem preStep_dmad (s : State) (e : Eff) :
    (s.preStep e).dmad = s.dmad := by
  unfold State.preStep; split <;> simp

@[simp] theorem preStep_dmac (s : State) (e : Eff) :
    (s.preStep e).dmac = s.dmac := by
  unfold State.preStep; split <;> simp

@[simp] theorem preStep_dmam (s : State) (e : Eff) :
    (s.preStep e).dmam = s.dmam := by
  unfold State.preStep; split <;> simp

@[simp] theorem preStep_intnest (s : State) (e : Eff) :
    (s.preStep e).intnest = s.intnest := by
  unfold State.preStep; split <;> simp

@[simp] theorem preStep_halted (s : State) (e : Eff) :
    (s.preStep e).halted = s.halted := by
  unfold State.preStep; split <;> simp

@[simp] theorem preStep_repeating (s : State) (e : Eff) :
    (s.preStep e).repeating = s.repeating := by
  unfold State.preStep; split <;> simp

@[simp] theorem preStep_mem (s : State) (e : Eff) :
    (s.preStep e).mem = s.mem := by
  unfold State.preStep; split <;> simp

@[simp] theorem preStep_offers (s : State) (e : Eff) :
    (s.preStep e).offers = s.offers := by
  unfold State.preStep; split <;> simp

@[simp] theorem preStep_draws (s : State) (e : Eff) :
    (s.preStep e).draws = s.draws := by
  unfold State.preStep; split <;> simp

@[simp] theorem preStep_stores (s : State) (e : Eff) :
    (s.preStep e).stores = s.stores := by
  unfold State.preStep; split <;> simp

@[simp] theorem preStep_product (s : State) (e : Eff) :
    (s.preStep e).product = s.product := by
  unfold State.preStep; split <;> simp

@[simp] theorem postStep_pc (s : State) (e : Eff) :
    (s.postStep e).pc = s.pc := by
  unfold State.postStep; split <;> simp

@[simp] theorem postStep_f (s : State) (e : Eff) :
    (s.postStep e).f = s.f := by
  unfold State.postStep; split <;> simp

@[simp] theorem postStep_fAlt (s : State) (e : Eff) :
    (s.postStep e).fAlt = s.fAlt := by
  unfold State.postStep; split <;> simp

@[simp] theorem postStep_iff (s : State) (e : Eff) :
    (s.postStep e).iff = s.iff := by
  unfold State.postStep; split <;> simp

@[simp] theorem postStep_max (s : State) (e : Eff) :
    (s.postStep e).max = s.max := by
  unfold State.postStep; split <;> simp

@[simp] theorem postStep_rfp (s : State) (e : Eff) :
    (s.postStep e).rfp = s.rfp := by
  unfold State.postStep; split <;> simp

@[simp] theorem postStep_dmas (s : State) (e : Eff) :
    (s.postStep e).dmas = s.dmas := by
  unfold State.postStep; split <;> simp

@[simp] theorem postStep_dmad (s : State) (e : Eff) :
    (s.postStep e).dmad = s.dmad := by
  unfold State.postStep; split <;> simp

@[simp] theorem postStep_dmac (s : State) (e : Eff) :
    (s.postStep e).dmac = s.dmac := by
  unfold State.postStep; split <;> simp

@[simp] theorem postStep_dmam (s : State) (e : Eff) :
    (s.postStep e).dmam = s.dmam := by
  unfold State.postStep; split <;> simp

@[simp] theorem postStep_intnest (s : State) (e : Eff) :
    (s.postStep e).intnest = s.intnest := by
  unfold State.postStep; split <;> simp

@[simp] theorem postStep_halted (s : State) (e : Eff) :
    (s.postStep e).halted = s.halted := by
  unfold State.postStep; split <;> simp

@[simp] theorem postStep_repeating (s : State) (e : Eff) :
    (s.postStep e).repeating = s.repeating := by
  unfold State.postStep; split <;> simp

@[simp] theorem postStep_mem (s : State) (e : Eff) :
    (s.postStep e).mem = s.mem := by
  unfold State.postStep; split <;> simp

@[simp] theorem postStep_offers (s : State) (e : Eff) :
    (s.postStep e).offers = s.offers := by
  unfold State.postStep; split <;> simp

@[simp] theorem postStep_draws (s : State) (e : Eff) :
    (s.postStep e).draws = s.draws := by
  unfold State.postStep; split <;> simp

@[simp] theorem postStep_stores (s : State) (e : Eff) :
    (s.postStep e).stores = s.stores := by
  unfold State.postStep; split <;> simp

@[simp] theorem postStep_product (s : State) (e : Eff) :
    (s.postStep e).product = s.product := by
  unfold State.postStep; split <;> simp

/-! ## Draws and flags -/

@[simp] theorem drawn_banks (s : State) (n : Nat) :
    (s.drawn n).banks = s.banks := rfl

@[simp] theorem drawn_minBanks (s : State) (n : Nat) :
    (s.drawn n).minBanks = s.minBanks := rfl

@[simp] theorem drawn_xix (s : State) (n : Nat) :
    (s.drawn n).xix = s.xix := rfl

@[simp] theorem drawn_xiy (s : State) (n : Nat) :
    (s.drawn n).xiy = s.xiy := rfl

@[simp] theorem drawn_xiz (s : State) (n : Nat) :
    (s.drawn n).xiz = s.xiz := rfl

@[simp] theorem drawn_xsp (s : State) (n : Nat) :
    (s.drawn n).xsp = s.xsp := rfl

@[simp] theorem drawn_pc (s : State) (n : Nat) :
    (s.drawn n).pc = s.pc := rfl

@[simp] theorem drawn_f (s : State) (n : Nat) :
    (s.drawn n).f = s.f := rfl

@[simp] theorem drawn_fAlt (s : State) (n : Nat) :
    (s.drawn n).fAlt = s.fAlt := rfl

@[simp] theorem drawn_iff (s : State) (n : Nat) :
    (s.drawn n).iff = s.iff := rfl

@[simp] theorem drawn_max (s : State) (n : Nat) :
    (s.drawn n).max = s.max := rfl

@[simp] theorem drawn_rfp (s : State) (n : Nat) :
    (s.drawn n).rfp = s.rfp := rfl

@[simp] theorem drawn_dmas (s : State) (n : Nat) :
    (s.drawn n).dmas = s.dmas := rfl

@[simp] theorem drawn_dmad (s : State) (n : Nat) :
    (s.drawn n).dmad = s.dmad := rfl

@[simp] theorem drawn_dmac (s : State) (n : Nat) :
    (s.drawn n).dmac = s.dmac := rfl

@[simp] theorem drawn_dmam (s : State) (n : Nat) :
    (s.drawn n).dmam = s.dmam := rfl

@[simp] theorem drawn_intnest (s : State) (n : Nat) :
    (s.drawn n).intnest = s.intnest := rfl

@[simp] theorem drawn_halted (s : State) (n : Nat) :
    (s.drawn n).halted = s.halted := rfl

@[simp] theorem drawn_repeating (s : State) (n : Nat) :
    (s.drawn n).repeating = s.repeating := rfl

@[simp] theorem drawn_mem (s : State) (n : Nat) :
    (s.drawn n).mem = s.mem := rfl

@[simp] theorem drawn_offers (s : State) (n : Nat) :
    (s.drawn n).offers = s.offers := rfl

@[simp] theorem drawn_stores (s : State) (n : Nat) :
    (s.drawn n).stores = s.stores := rfl

@[simp] theorem drawn_product (s : State) (n : Nat) :
    (s.drawn n).product = s.product := rfl

@[simp] theorem begun_banks (s : State) :
    (s.begun).banks = s.banks := rfl

@[simp] theorem begun_minBanks (s : State) :
    (s.begun).minBanks = s.minBanks := rfl

@[simp] theorem begun_xix (s : State) :
    (s.begun).xix = s.xix := rfl

@[simp] theorem begun_xiy (s : State) :
    (s.begun).xiy = s.xiy := rfl

@[simp] theorem begun_xiz (s : State) :
    (s.begun).xiz = s.xiz := rfl

@[simp] theorem begun_xsp (s : State) :
    (s.begun).xsp = s.xsp := rfl

@[simp] theorem begun_pc (s : State) :
    (s.begun).pc = s.pc := rfl

@[simp] theorem begun_f (s : State) :
    (s.begun).f = s.f := rfl

@[simp] theorem begun_fAlt (s : State) :
    (s.begun).fAlt = s.fAlt := rfl

@[simp] theorem begun_iff (s : State) :
    (s.begun).iff = s.iff := rfl

@[simp] theorem begun_max (s : State) :
    (s.begun).max = s.max := rfl

@[simp] theorem begun_rfp (s : State) :
    (s.begun).rfp = s.rfp := rfl

@[simp] theorem begun_dmas (s : State) :
    (s.begun).dmas = s.dmas := rfl

@[simp] theorem begun_dmad (s : State) :
    (s.begun).dmad = s.dmad := rfl

@[simp] theorem begun_dmac (s : State) :
    (s.begun).dmac = s.dmac := rfl

@[simp] theorem begun_dmam (s : State) :
    (s.begun).dmam = s.dmam := rfl

@[simp] theorem begun_intnest (s : State) :
    (s.begun).intnest = s.intnest := rfl

@[simp] theorem begun_halted (s : State) :
    (s.begun).halted = s.halted := rfl

@[simp] theorem begun_repeating (s : State) :
    (s.begun).repeating = s.repeating := rfl

@[simp] theorem begun_mem (s : State) :
    (s.begun).mem = s.mem := rfl

@[simp] theorem begun_offers (s : State) :
    (s.begun).offers = s.offers := rfl

@[simp] theorem begun_product (s : State) :
    (s.begun).product = s.product := rfl

@[simp] theorem testFlags_banks (s : State) (b : Bool) :
    (s.testFlags b).banks = s.banks := rfl

@[simp] theorem testFlags_minBanks (s : State) (b : Bool) :
    (s.testFlags b).minBanks = s.minBanks := rfl

@[simp] theorem testFlags_xix (s : State) (b : Bool) :
    (s.testFlags b).xix = s.xix := rfl

@[simp] theorem testFlags_xiy (s : State) (b : Bool) :
    (s.testFlags b).xiy = s.xiy := rfl

@[simp] theorem testFlags_xiz (s : State) (b : Bool) :
    (s.testFlags b).xiz = s.xiz := rfl

@[simp] theorem testFlags_xsp (s : State) (b : Bool) :
    (s.testFlags b).xsp = s.xsp := rfl

@[simp] theorem testFlags_pc (s : State) (b : Bool) :
    (s.testFlags b).pc = s.pc := rfl

@[simp] theorem testFlags_fAlt (s : State) (b : Bool) :
    (s.testFlags b).fAlt = s.fAlt := rfl

@[simp] theorem testFlags_iff (s : State) (b : Bool) :
    (s.testFlags b).iff = s.iff := rfl

@[simp] theorem testFlags_max (s : State) (b : Bool) :
    (s.testFlags b).max = s.max := rfl

@[simp] theorem testFlags_rfp (s : State) (b : Bool) :
    (s.testFlags b).rfp = s.rfp := rfl

@[simp] theorem testFlags_dmas (s : State) (b : Bool) :
    (s.testFlags b).dmas = s.dmas := rfl

@[simp] theorem testFlags_dmad (s : State) (b : Bool) :
    (s.testFlags b).dmad = s.dmad := rfl

@[simp] theorem testFlags_dmac (s : State) (b : Bool) :
    (s.testFlags b).dmac = s.dmac := rfl

@[simp] theorem testFlags_dmam (s : State) (b : Bool) :
    (s.testFlags b).dmam = s.dmam := rfl

@[simp] theorem testFlags_intnest (s : State) (b : Bool) :
    (s.testFlags b).intnest = s.intnest := rfl

@[simp] theorem testFlags_halted (s : State) (b : Bool) :
    (s.testFlags b).halted = s.halted := rfl

@[simp] theorem testFlags_repeating (s : State) (b : Bool) :
    (s.testFlags b).repeating = s.repeating := rfl

@[simp] theorem testFlags_mem (s : State) (b : Bool) :
    (s.testFlags b).mem = s.mem := rfl

@[simp] theorem testFlags_offers (s : State) (b : Bool) :
    (s.testFlags b).offers = s.offers := rfl

@[simp] theorem testFlags_stores (s : State) (b : Bool) :
    (s.testFlags b).stores = s.stores := rfl

@[simp] theorem testFlags_product (s : State) (b : Bool) :
    (s.testFlags b).product = s.product := rfl

@[simp] theorem carryFrom_banks {w : Nat} (s : State) (op : CarryOp) (n : Nat) (v : BitVec w) :
    (s.carryFrom op n v).banks = s.banks := rfl

@[simp] theorem carryFrom_minBanks {w : Nat} (s : State) (op : CarryOp) (n : Nat) (v : BitVec w) :
    (s.carryFrom op n v).minBanks = s.minBanks := rfl

@[simp] theorem carryFrom_xix {w : Nat} (s : State) (op : CarryOp) (n : Nat) (v : BitVec w) :
    (s.carryFrom op n v).xix = s.xix := rfl

@[simp] theorem carryFrom_xiy {w : Nat} (s : State) (op : CarryOp) (n : Nat) (v : BitVec w) :
    (s.carryFrom op n v).xiy = s.xiy := rfl

@[simp] theorem carryFrom_xiz {w : Nat} (s : State) (op : CarryOp) (n : Nat) (v : BitVec w) :
    (s.carryFrom op n v).xiz = s.xiz := rfl

@[simp] theorem carryFrom_xsp {w : Nat} (s : State) (op : CarryOp) (n : Nat) (v : BitVec w) :
    (s.carryFrom op n v).xsp = s.xsp := rfl

@[simp] theorem carryFrom_pc {w : Nat} (s : State) (op : CarryOp) (n : Nat) (v : BitVec w) :
    (s.carryFrom op n v).pc = s.pc := rfl

@[simp] theorem carryFrom_fAlt {w : Nat} (s : State) (op : CarryOp) (n : Nat) (v : BitVec w) :
    (s.carryFrom op n v).fAlt = s.fAlt := rfl

@[simp] theorem carryFrom_iff {w : Nat} (s : State) (op : CarryOp) (n : Nat) (v : BitVec w) :
    (s.carryFrom op n v).iff = s.iff := rfl

@[simp] theorem carryFrom_max {w : Nat} (s : State) (op : CarryOp) (n : Nat) (v : BitVec w) :
    (s.carryFrom op n v).max = s.max := rfl

@[simp] theorem carryFrom_rfp {w : Nat} (s : State) (op : CarryOp) (n : Nat) (v : BitVec w) :
    (s.carryFrom op n v).rfp = s.rfp := rfl

@[simp] theorem carryFrom_dmas {w : Nat} (s : State) (op : CarryOp) (n : Nat) (v : BitVec w) :
    (s.carryFrom op n v).dmas = s.dmas := rfl

@[simp] theorem carryFrom_dmad {w : Nat} (s : State) (op : CarryOp) (n : Nat) (v : BitVec w) :
    (s.carryFrom op n v).dmad = s.dmad := rfl

@[simp] theorem carryFrom_dmac {w : Nat} (s : State) (op : CarryOp) (n : Nat) (v : BitVec w) :
    (s.carryFrom op n v).dmac = s.dmac := rfl

@[simp] theorem carryFrom_dmam {w : Nat} (s : State) (op : CarryOp) (n : Nat) (v : BitVec w) :
    (s.carryFrom op n v).dmam = s.dmam := rfl

@[simp] theorem carryFrom_intnest {w : Nat} (s : State) (op : CarryOp) (n : Nat) (v : BitVec w) :
    (s.carryFrom op n v).intnest = s.intnest := rfl

@[simp] theorem carryFrom_halted {w : Nat} (s : State) (op : CarryOp) (n : Nat) (v : BitVec w) :
    (s.carryFrom op n v).halted = s.halted := rfl

@[simp] theorem carryFrom_repeating {w : Nat} (s : State) (op : CarryOp) (n : Nat) (v : BitVec w) :
    (s.carryFrom op n v).repeating = s.repeating := rfl

@[simp] theorem carryFrom_mem {w : Nat} (s : State) (op : CarryOp) (n : Nat) (v : BitVec w) :
    (s.carryFrom op n v).mem = s.mem := rfl

@[simp] theorem carryFrom_offers {w : Nat} (s : State) (op : CarryOp) (n : Nat) (v : BitVec w) :
    (s.carryFrom op n v).offers = s.offers := rfl

@[simp] theorem carryFrom_stores {w : Nat} (s : State) (op : CarryOp) (n : Nat) (v : BitVec w) :
    (s.carryFrom op n v).stores = s.stores := rfl

@[simp] theorem carryFrom_product {w : Nat} (s : State) (op : CarryOp) (n : Nat) (v : BitVec w) :
    (s.carryFrom op n v).product = s.product := rfl

@[simp] theorem setSlotAndStep_pc (s : State) (e : Eff) (sz : Size) (d : Slot) (v : BitVec sz.bits) :
    (s.setSlotAndStep e sz d v).pc = s.pc := by
  unfold State.setSlotAndStep; split
  · split <;> simp
  · simp

@[simp] theorem setSlotAndStep_f (s : State) (e : Eff) (sz : Size) (d : Slot) (v : BitVec sz.bits) :
    (s.setSlotAndStep e sz d v).f = s.f := by
  unfold State.setSlotAndStep; split
  · split <;> simp
  · simp

@[simp] theorem setSlotAndStep_fAlt (s : State) (e : Eff) (sz : Size) (d : Slot) (v : BitVec sz.bits) :
    (s.setSlotAndStep e sz d v).fAlt = s.fAlt := by
  unfold State.setSlotAndStep; split
  · split <;> simp
  · simp

@[simp] theorem setSlotAndStep_iff (s : State) (e : Eff) (sz : Size) (d : Slot) (v : BitVec sz.bits) :
    (s.setSlotAndStep e sz d v).iff = s.iff := by
  unfold State.setSlotAndStep; split
  · split <;> simp
  · simp

@[simp] theorem setSlotAndStep_max (s : State) (e : Eff) (sz : Size) (d : Slot) (v : BitVec sz.bits) :
    (s.setSlotAndStep e sz d v).max = s.max := by
  unfold State.setSlotAndStep; split
  · split <;> simp
  · simp

@[simp] theorem setSlotAndStep_rfp (s : State) (e : Eff) (sz : Size) (d : Slot) (v : BitVec sz.bits) :
    (s.setSlotAndStep e sz d v).rfp = s.rfp := by
  unfold State.setSlotAndStep; split
  · split <;> simp
  · simp

@[simp] theorem setSlotAndStep_dmas (s : State) (e : Eff) (sz : Size) (d : Slot) (v : BitVec sz.bits) :
    (s.setSlotAndStep e sz d v).dmas = s.dmas := by
  unfold State.setSlotAndStep; split
  · split <;> simp
  · simp

@[simp] theorem setSlotAndStep_dmad (s : State) (e : Eff) (sz : Size) (d : Slot) (v : BitVec sz.bits) :
    (s.setSlotAndStep e sz d v).dmad = s.dmad := by
  unfold State.setSlotAndStep; split
  · split <;> simp
  · simp

@[simp] theorem setSlotAndStep_dmac (s : State) (e : Eff) (sz : Size) (d : Slot) (v : BitVec sz.bits) :
    (s.setSlotAndStep e sz d v).dmac = s.dmac := by
  unfold State.setSlotAndStep; split
  · split <;> simp
  · simp

@[simp] theorem setSlotAndStep_dmam (s : State) (e : Eff) (sz : Size) (d : Slot) (v : BitVec sz.bits) :
    (s.setSlotAndStep e sz d v).dmam = s.dmam := by
  unfold State.setSlotAndStep; split
  · split <;> simp
  · simp

@[simp] theorem setSlotAndStep_intnest (s : State) (e : Eff) (sz : Size) (d : Slot) (v : BitVec sz.bits) :
    (s.setSlotAndStep e sz d v).intnest = s.intnest := by
  unfold State.setSlotAndStep; split
  · split <;> simp
  · simp

@[simp] theorem setSlotAndStep_halted (s : State) (e : Eff) (sz : Size) (d : Slot) (v : BitVec sz.bits) :
    (s.setSlotAndStep e sz d v).halted = s.halted := by
  unfold State.setSlotAndStep; split
  · split <;> simp
  · simp

@[simp] theorem setSlotAndStep_repeating (s : State) (e : Eff) (sz : Size) (d : Slot) (v : BitVec sz.bits) :
    (s.setSlotAndStep e sz d v).repeating = s.repeating := by
  unfold State.setSlotAndStep; split
  · split <;> simp
  · simp

@[simp] theorem setSlotAndStep_mem (s : State) (e : Eff) (sz : Size) (d : Slot) (v : BitVec sz.bits) :
    (s.setSlotAndStep e sz d v).mem = s.mem := by
  unfold State.setSlotAndStep; split
  · split <;> simp
  · simp

@[simp] theorem setSlotAndStep_offers (s : State) (e : Eff) (sz : Size) (d : Slot) (v : BitVec sz.bits) :
    (s.setSlotAndStep e sz d v).offers = s.offers := by
  unfold State.setSlotAndStep; split
  · split <;> simp
  · simp

@[simp] theorem setSlotAndStep_stores (s : State) (e : Eff) (sz : Size) (d : Slot) (v : BitVec sz.bits) :
    (s.setSlotAndStep e sz d v).stores = s.stores := by
  unfold State.setSlotAndStep; split
  · split <;> simp
  · simp

@[simp] theorem setSlotAndStep_product (s : State) (e : Eff) (sz : Size) (d : Slot) (v : BitVec sz.bits) :
    (s.setSlotAndStep e sz d v).product = s.product := by
  unfold State.setSlotAndStep; split
  · split <;> simp
  · simp

/-! ## Memory, pc and stack -/

@[simp] theorem setByte_banks (s : State) (a : Word32) (v : Byte) :
    (s.setByte a v).banks = s.banks := rfl

@[simp] theorem setByte_minBanks (s : State) (a : Word32) (v : Byte) :
    (s.setByte a v).minBanks = s.minBanks := rfl

@[simp] theorem setByte_xix (s : State) (a : Word32) (v : Byte) :
    (s.setByte a v).xix = s.xix := rfl

@[simp] theorem setByte_xiy (s : State) (a : Word32) (v : Byte) :
    (s.setByte a v).xiy = s.xiy := rfl

@[simp] theorem setByte_xiz (s : State) (a : Word32) (v : Byte) :
    (s.setByte a v).xiz = s.xiz := rfl

@[simp] theorem setByte_xsp (s : State) (a : Word32) (v : Byte) :
    (s.setByte a v).xsp = s.xsp := rfl

@[simp] theorem setByte_pc (s : State) (a : Word32) (v : Byte) :
    (s.setByte a v).pc = s.pc := rfl

@[simp] theorem setByte_f (s : State) (a : Word32) (v : Byte) :
    (s.setByte a v).f = s.f := rfl

@[simp] theorem setByte_fAlt (s : State) (a : Word32) (v : Byte) :
    (s.setByte a v).fAlt = s.fAlt := rfl

@[simp] theorem setByte_iff (s : State) (a : Word32) (v : Byte) :
    (s.setByte a v).iff = s.iff := rfl

@[simp] theorem setByte_max (s : State) (a : Word32) (v : Byte) :
    (s.setByte a v).max = s.max := rfl

@[simp] theorem setByte_rfp (s : State) (a : Word32) (v : Byte) :
    (s.setByte a v).rfp = s.rfp := rfl

@[simp] theorem setByte_dmas (s : State) (a : Word32) (v : Byte) :
    (s.setByte a v).dmas = s.dmas := rfl

@[simp] theorem setByte_dmad (s : State) (a : Word32) (v : Byte) :
    (s.setByte a v).dmad = s.dmad := rfl

@[simp] theorem setByte_dmac (s : State) (a : Word32) (v : Byte) :
    (s.setByte a v).dmac = s.dmac := rfl

@[simp] theorem setByte_dmam (s : State) (a : Word32) (v : Byte) :
    (s.setByte a v).dmam = s.dmam := rfl

@[simp] theorem setByte_intnest (s : State) (a : Word32) (v : Byte) :
    (s.setByte a v).intnest = s.intnest := rfl

@[simp] theorem setByte_halted (s : State) (a : Word32) (v : Byte) :
    (s.setByte a v).halted = s.halted := rfl

@[simp] theorem setByte_repeating (s : State) (a : Word32) (v : Byte) :
    (s.setByte a v).repeating = s.repeating := rfl

@[simp] theorem setByte_offers (s : State) (a : Word32) (v : Byte) :
    (s.setByte a v).offers = s.offers := rfl

@[simp] theorem setByte_draws (s : State) (a : Word32) (v : Byte) :
    (s.setByte a v).draws = s.draws := rfl

@[simp] theorem setByte_product (s : State) (a : Word32) (v : Byte) :
    (s.setByte a v).product = s.product := rfl

@[simp] theorem memWrite_banks (s : State) (sz : Size) (a : Word32) (v : BitVec sz.bits) :
    (s.memWrite sz a v).banks = s.banks := by
  cases sz <;> simp [State.memWrite]

@[simp] theorem memWrite_minBanks (s : State) (sz : Size) (a : Word32) (v : BitVec sz.bits) :
    (s.memWrite sz a v).minBanks = s.minBanks := by
  cases sz <;> simp [State.memWrite]

@[simp] theorem memWrite_xix (s : State) (sz : Size) (a : Word32) (v : BitVec sz.bits) :
    (s.memWrite sz a v).xix = s.xix := by
  cases sz <;> simp [State.memWrite]

@[simp] theorem memWrite_xiy (s : State) (sz : Size) (a : Word32) (v : BitVec sz.bits) :
    (s.memWrite sz a v).xiy = s.xiy := by
  cases sz <;> simp [State.memWrite]

@[simp] theorem memWrite_xiz (s : State) (sz : Size) (a : Word32) (v : BitVec sz.bits) :
    (s.memWrite sz a v).xiz = s.xiz := by
  cases sz <;> simp [State.memWrite]

@[simp] theorem memWrite_xsp (s : State) (sz : Size) (a : Word32) (v : BitVec sz.bits) :
    (s.memWrite sz a v).xsp = s.xsp := by
  cases sz <;> simp [State.memWrite]

@[simp] theorem memWrite_pc (s : State) (sz : Size) (a : Word32) (v : BitVec sz.bits) :
    (s.memWrite sz a v).pc = s.pc := by
  cases sz <;> simp [State.memWrite]

@[simp] theorem memWrite_f (s : State) (sz : Size) (a : Word32) (v : BitVec sz.bits) :
    (s.memWrite sz a v).f = s.f := by
  cases sz <;> simp [State.memWrite]

@[simp] theorem memWrite_fAlt (s : State) (sz : Size) (a : Word32) (v : BitVec sz.bits) :
    (s.memWrite sz a v).fAlt = s.fAlt := by
  cases sz <;> simp [State.memWrite]

@[simp] theorem memWrite_iff (s : State) (sz : Size) (a : Word32) (v : BitVec sz.bits) :
    (s.memWrite sz a v).iff = s.iff := by
  cases sz <;> simp [State.memWrite]

@[simp] theorem memWrite_max (s : State) (sz : Size) (a : Word32) (v : BitVec sz.bits) :
    (s.memWrite sz a v).max = s.max := by
  cases sz <;> simp [State.memWrite]

@[simp] theorem memWrite_rfp (s : State) (sz : Size) (a : Word32) (v : BitVec sz.bits) :
    (s.memWrite sz a v).rfp = s.rfp := by
  cases sz <;> simp [State.memWrite]

@[simp] theorem memWrite_dmas (s : State) (sz : Size) (a : Word32) (v : BitVec sz.bits) :
    (s.memWrite sz a v).dmas = s.dmas := by
  cases sz <;> simp [State.memWrite]

@[simp] theorem memWrite_dmad (s : State) (sz : Size) (a : Word32) (v : BitVec sz.bits) :
    (s.memWrite sz a v).dmad = s.dmad := by
  cases sz <;> simp [State.memWrite]

@[simp] theorem memWrite_dmac (s : State) (sz : Size) (a : Word32) (v : BitVec sz.bits) :
    (s.memWrite sz a v).dmac = s.dmac := by
  cases sz <;> simp [State.memWrite]

@[simp] theorem memWrite_dmam (s : State) (sz : Size) (a : Word32) (v : BitVec sz.bits) :
    (s.memWrite sz a v).dmam = s.dmam := by
  cases sz <;> simp [State.memWrite]

@[simp] theorem memWrite_intnest (s : State) (sz : Size) (a : Word32) (v : BitVec sz.bits) :
    (s.memWrite sz a v).intnest = s.intnest := by
  cases sz <;> simp [State.memWrite]

@[simp] theorem memWrite_halted (s : State) (sz : Size) (a : Word32) (v : BitVec sz.bits) :
    (s.memWrite sz a v).halted = s.halted := by
  cases sz <;> simp [State.memWrite]

@[simp] theorem memWrite_repeating (s : State) (sz : Size) (a : Word32) (v : BitVec sz.bits) :
    (s.memWrite sz a v).repeating = s.repeating := by
  cases sz <;> simp [State.memWrite]

@[simp] theorem memWrite_offers (s : State) (sz : Size) (a : Word32) (v : BitVec sz.bits) :
    (s.memWrite sz a v).offers = s.offers := by
  cases sz <;> simp [State.memWrite]

@[simp] theorem memWrite_draws (s : State) (sz : Size) (a : Word32) (v : BitVec sz.bits) :
    (s.memWrite sz a v).draws = s.draws := by
  cases sz <;> simp [State.memWrite]

@[simp] theorem memWrite_product (s : State) (sz : Size) (a : Word32) (v : BitVec sz.bits) :
    (s.memWrite sz a v).product = s.product := by
  cases sz <;> simp [State.memWrite]

@[simp] theorem jump_banks (s : State) (t : Word32) :
    (s.jump t).banks = s.banks := rfl

@[simp] theorem jump_minBanks (s : State) (t : Word32) :
    (s.jump t).minBanks = s.minBanks := rfl

@[simp] theorem jump_xix (s : State) (t : Word32) :
    (s.jump t).xix = s.xix := rfl

@[simp] theorem jump_xiy (s : State) (t : Word32) :
    (s.jump t).xiy = s.xiy := rfl

@[simp] theorem jump_xiz (s : State) (t : Word32) :
    (s.jump t).xiz = s.xiz := rfl

@[simp] theorem jump_xsp (s : State) (t : Word32) :
    (s.jump t).xsp = s.xsp := rfl

@[simp] theorem jump_f (s : State) (t : Word32) :
    (s.jump t).f = s.f := rfl

@[simp] theorem jump_fAlt (s : State) (t : Word32) :
    (s.jump t).fAlt = s.fAlt := rfl

@[simp] theorem jump_iff (s : State) (t : Word32) :
    (s.jump t).iff = s.iff := rfl

@[simp] theorem jump_max (s : State) (t : Word32) :
    (s.jump t).max = s.max := rfl

@[simp] theorem jump_rfp (s : State) (t : Word32) :
    (s.jump t).rfp = s.rfp := rfl

@[simp] theorem jump_dmas (s : State) (t : Word32) :
    (s.jump t).dmas = s.dmas := rfl

@[simp] theorem jump_dmad (s : State) (t : Word32) :
    (s.jump t).dmad = s.dmad := rfl

@[simp] theorem jump_dmac (s : State) (t : Word32) :
    (s.jump t).dmac = s.dmac := rfl

@[simp] theorem jump_dmam (s : State) (t : Word32) :
    (s.jump t).dmam = s.dmam := rfl

@[simp] theorem jump_intnest (s : State) (t : Word32) :
    (s.jump t).intnest = s.intnest := rfl

@[simp] theorem jump_halted (s : State) (t : Word32) :
    (s.jump t).halted = s.halted := rfl

@[simp] theorem jump_repeating (s : State) (t : Word32) :
    (s.jump t).repeating = s.repeating := rfl

@[simp] theorem jump_mem (s : State) (t : Word32) :
    (s.jump t).mem = s.mem := rfl

@[simp] theorem jump_offers (s : State) (t : Word32) :
    (s.jump t).offers = s.offers := rfl

@[simp] theorem jump_draws (s : State) (t : Word32) :
    (s.jump t).draws = s.draws := rfl

@[simp] theorem jump_stores (s : State) (t : Word32) :
    (s.jump t).stores = s.stores := rfl

@[simp] theorem jump_product (s : State) (t : Word32) :
    (s.jump t).product = s.product := rfl

@[simp] theorem advance_banks (s : State) (n : Nat) :
    (s.advance n).banks = s.banks := rfl

@[simp] theorem advance_minBanks (s : State) (n : Nat) :
    (s.advance n).minBanks = s.minBanks := rfl

@[simp] theorem advance_xix (s : State) (n : Nat) :
    (s.advance n).xix = s.xix := rfl

@[simp] theorem advance_xiy (s : State) (n : Nat) :
    (s.advance n).xiy = s.xiy := rfl

@[simp] theorem advance_xiz (s : State) (n : Nat) :
    (s.advance n).xiz = s.xiz := rfl

@[simp] theorem advance_xsp (s : State) (n : Nat) :
    (s.advance n).xsp = s.xsp := rfl

@[simp] theorem advance_f (s : State) (n : Nat) :
    (s.advance n).f = s.f := rfl

@[simp] theorem advance_fAlt (s : State) (n : Nat) :
    (s.advance n).fAlt = s.fAlt := rfl

@[simp] theorem advance_iff (s : State) (n : Nat) :
    (s.advance n).iff = s.iff := rfl

@[simp] theorem advance_max (s : State) (n : Nat) :
    (s.advance n).max = s.max := rfl

@[simp] theorem advance_rfp (s : State) (n : Nat) :
    (s.advance n).rfp = s.rfp := rfl

@[simp] theorem advance_dmas (s : State) (n : Nat) :
    (s.advance n).dmas = s.dmas := rfl

@[simp] theorem advance_dmad (s : State) (n : Nat) :
    (s.advance n).dmad = s.dmad := rfl

@[simp] theorem advance_dmac (s : State) (n : Nat) :
    (s.advance n).dmac = s.dmac := rfl

@[simp] theorem advance_dmam (s : State) (n : Nat) :
    (s.advance n).dmam = s.dmam := rfl

@[simp] theorem advance_intnest (s : State) (n : Nat) :
    (s.advance n).intnest = s.intnest := rfl

@[simp] theorem advance_halted (s : State) (n : Nat) :
    (s.advance n).halted = s.halted := rfl

@[simp] theorem advance_mem (s : State) (n : Nat) :
    (s.advance n).mem = s.mem := rfl

@[simp] theorem advance_offers (s : State) (n : Nat) :
    (s.advance n).offers = s.offers := rfl

@[simp] theorem advance_product (s : State) (n : Nat) :
    (s.advance n).product = s.product := rfl

@[simp] theorem again_banks (s : State) (i : Repeating) :
    (s.again i).banks = s.banks := rfl

@[simp] theorem again_minBanks (s : State) (i : Repeating) :
    (s.again i).minBanks = s.minBanks := rfl

@[simp] theorem again_xix (s : State) (i : Repeating) :
    (s.again i).xix = s.xix := rfl

@[simp] theorem again_xiy (s : State) (i : Repeating) :
    (s.again i).xiy = s.xiy := rfl

@[simp] theorem again_xiz (s : State) (i : Repeating) :
    (s.again i).xiz = s.xiz := rfl

@[simp] theorem again_xsp (s : State) (i : Repeating) :
    (s.again i).xsp = s.xsp := rfl

@[simp] theorem again_f (s : State) (i : Repeating) :
    (s.again i).f = s.f := rfl

@[simp] theorem again_fAlt (s : State) (i : Repeating) :
    (s.again i).fAlt = s.fAlt := rfl

@[simp] theorem again_iff (s : State) (i : Repeating) :
    (s.again i).iff = s.iff := rfl

@[simp] theorem again_max (s : State) (i : Repeating) :
    (s.again i).max = s.max := rfl

@[simp] theorem again_rfp (s : State) (i : Repeating) :
    (s.again i).rfp = s.rfp := rfl

@[simp] theorem again_dmas (s : State) (i : Repeating) :
    (s.again i).dmas = s.dmas := rfl

@[simp] theorem again_dmad (s : State) (i : Repeating) :
    (s.again i).dmad = s.dmad := rfl

@[simp] theorem again_dmac (s : State) (i : Repeating) :
    (s.again i).dmac = s.dmac := rfl

@[simp] theorem again_dmam (s : State) (i : Repeating) :
    (s.again i).dmam = s.dmam := rfl

@[simp] theorem again_intnest (s : State) (i : Repeating) :
    (s.again i).intnest = s.intnest := rfl

@[simp] theorem again_halted (s : State) (i : Repeating) :
    (s.again i).halted = s.halted := rfl

@[simp] theorem again_mem (s : State) (i : Repeating) :
    (s.again i).mem = s.mem := rfl

@[simp] theorem again_offers (s : State) (i : Repeating) :
    (s.again i).offers = s.offers := rfl

@[simp] theorem again_draws (s : State) (i : Repeating) :
    (s.again i).draws = s.draws := rfl

@[simp] theorem again_stores (s : State) (i : Repeating) :
    (s.again i).stores = s.stores := rfl

@[simp] theorem again_product (s : State) (i : Repeating) :
    (s.again i).product = s.product := rfl

@[simp] theorem popped_banks (s : State) (sz : Size) :
    (s.popped sz).banks = s.banks := rfl

@[simp] theorem popped_minBanks (s : State) (sz : Size) :
    (s.popped sz).minBanks = s.minBanks := rfl

@[simp] theorem popped_xix (s : State) (sz : Size) :
    (s.popped sz).xix = s.xix := rfl

@[simp] theorem popped_xiy (s : State) (sz : Size) :
    (s.popped sz).xiy = s.xiy := rfl

@[simp] theorem popped_xiz (s : State) (sz : Size) :
    (s.popped sz).xiz = s.xiz := rfl

@[simp] theorem popped_pc (s : State) (sz : Size) :
    (s.popped sz).pc = s.pc := rfl

@[simp] theorem popped_f (s : State) (sz : Size) :
    (s.popped sz).f = s.f := rfl

@[simp] theorem popped_fAlt (s : State) (sz : Size) :
    (s.popped sz).fAlt = s.fAlt := rfl

@[simp] theorem popped_iff (s : State) (sz : Size) :
    (s.popped sz).iff = s.iff := rfl

@[simp] theorem popped_max (s : State) (sz : Size) :
    (s.popped sz).max = s.max := rfl

@[simp] theorem popped_rfp (s : State) (sz : Size) :
    (s.popped sz).rfp = s.rfp := rfl

@[simp] theorem popped_dmas (s : State) (sz : Size) :
    (s.popped sz).dmas = s.dmas := rfl

@[simp] theorem popped_dmad (s : State) (sz : Size) :
    (s.popped sz).dmad = s.dmad := rfl

@[simp] theorem popped_dmac (s : State) (sz : Size) :
    (s.popped sz).dmac = s.dmac := rfl

@[simp] theorem popped_dmam (s : State) (sz : Size) :
    (s.popped sz).dmam = s.dmam := rfl

@[simp] theorem popped_intnest (s : State) (sz : Size) :
    (s.popped sz).intnest = s.intnest := rfl

@[simp] theorem popped_halted (s : State) (sz : Size) :
    (s.popped sz).halted = s.halted := rfl

@[simp] theorem popped_repeating (s : State) (sz : Size) :
    (s.popped sz).repeating = s.repeating := rfl

@[simp] theorem popped_mem (s : State) (sz : Size) :
    (s.popped sz).mem = s.mem := rfl

@[simp] theorem popped_offers (s : State) (sz : Size) :
    (s.popped sz).offers = s.offers := rfl

@[simp] theorem popped_draws (s : State) (sz : Size) :
    (s.popped sz).draws = s.draws := rfl

@[simp] theorem popped_stores (s : State) (sz : Size) :
    (s.popped sz).stores = s.stores := rfl

@[simp] theorem popped_product (s : State) (sz : Size) :
    (s.popped sz).product = s.product := rfl

@[simp] theorem push_banks (s : State) (sz : Size) (v : BitVec sz.bits) :
    (s.push sz v).banks = s.banks := by
  simp [State.push]

@[simp] theorem push_minBanks (s : State) (sz : Size) (v : BitVec sz.bits) :
    (s.push sz v).minBanks = s.minBanks := by
  simp [State.push]

@[simp] theorem push_xix (s : State) (sz : Size) (v : BitVec sz.bits) :
    (s.push sz v).xix = s.xix := by
  simp [State.push]

@[simp] theorem push_xiy (s : State) (sz : Size) (v : BitVec sz.bits) :
    (s.push sz v).xiy = s.xiy := by
  simp [State.push]

@[simp] theorem push_xiz (s : State) (sz : Size) (v : BitVec sz.bits) :
    (s.push sz v).xiz = s.xiz := by
  simp [State.push]

@[simp] theorem push_pc (s : State) (sz : Size) (v : BitVec sz.bits) :
    (s.push sz v).pc = s.pc := by
  simp [State.push]

@[simp] theorem push_f (s : State) (sz : Size) (v : BitVec sz.bits) :
    (s.push sz v).f = s.f := by
  simp [State.push]

@[simp] theorem push_fAlt (s : State) (sz : Size) (v : BitVec sz.bits) :
    (s.push sz v).fAlt = s.fAlt := by
  simp [State.push]

@[simp] theorem push_iff (s : State) (sz : Size) (v : BitVec sz.bits) :
    (s.push sz v).iff = s.iff := by
  simp [State.push]

@[simp] theorem push_max (s : State) (sz : Size) (v : BitVec sz.bits) :
    (s.push sz v).max = s.max := by
  simp [State.push]

@[simp] theorem push_rfp (s : State) (sz : Size) (v : BitVec sz.bits) :
    (s.push sz v).rfp = s.rfp := by
  simp [State.push]

@[simp] theorem push_dmas (s : State) (sz : Size) (v : BitVec sz.bits) :
    (s.push sz v).dmas = s.dmas := by
  simp [State.push]

@[simp] theorem push_dmad (s : State) (sz : Size) (v : BitVec sz.bits) :
    (s.push sz v).dmad = s.dmad := by
  simp [State.push]

@[simp] theorem push_dmac (s : State) (sz : Size) (v : BitVec sz.bits) :
    (s.push sz v).dmac = s.dmac := by
  simp [State.push]

@[simp] theorem push_dmam (s : State) (sz : Size) (v : BitVec sz.bits) :
    (s.push sz v).dmam = s.dmam := by
  simp [State.push]

@[simp] theorem push_intnest (s : State) (sz : Size) (v : BitVec sz.bits) :
    (s.push sz v).intnest = s.intnest := by
  simp [State.push]

@[simp] theorem push_halted (s : State) (sz : Size) (v : BitVec sz.bits) :
    (s.push sz v).halted = s.halted := by
  simp [State.push]

@[simp] theorem push_repeating (s : State) (sz : Size) (v : BitVec sz.bits) :
    (s.push sz v).repeating = s.repeating := by
  simp [State.push]

@[simp] theorem push_offers (s : State) (sz : Size) (v : BitVec sz.bits) :
    (s.push sz v).offers = s.offers := by
  simp [State.push]

@[simp] theorem push_draws (s : State) (sz : Size) (v : BitVec sz.bits) :
    (s.push sz v).draws = s.draws := by
  simp [State.push]

@[simp] theorem push_product (s : State) (sz : Size) (v : BitVec sz.bits) :
    (s.push sz v).product = s.product := by
  simp [State.push]

@[simp] theorem pushPc_banks (s : State) :
    (s.pushPc).banks = s.banks := push_banks ..

@[simp] theorem pushPc_minBanks (s : State) :
    (s.pushPc).minBanks = s.minBanks := push_minBanks ..

@[simp] theorem pushPc_xix (s : State) :
    (s.pushPc).xix = s.xix := push_xix ..

@[simp] theorem pushPc_xiy (s : State) :
    (s.pushPc).xiy = s.xiy := push_xiy ..

@[simp] theorem pushPc_xiz (s : State) :
    (s.pushPc).xiz = s.xiz := push_xiz ..

@[simp] theorem pushPc_pc (s : State) :
    (s.pushPc).pc = s.pc := push_pc ..

@[simp] theorem pushPc_f (s : State) :
    (s.pushPc).f = s.f := push_f ..

@[simp] theorem pushPc_fAlt (s : State) :
    (s.pushPc).fAlt = s.fAlt := push_fAlt ..

@[simp] theorem pushPc_iff (s : State) :
    (s.pushPc).iff = s.iff := push_iff ..

@[simp] theorem pushPc_max (s : State) :
    (s.pushPc).max = s.max := push_max ..

@[simp] theorem pushPc_rfp (s : State) :
    (s.pushPc).rfp = s.rfp := push_rfp ..

@[simp] theorem pushPc_dmas (s : State) :
    (s.pushPc).dmas = s.dmas := push_dmas ..

@[simp] theorem pushPc_dmad (s : State) :
    (s.pushPc).dmad = s.dmad := push_dmad ..

@[simp] theorem pushPc_dmac (s : State) :
    (s.pushPc).dmac = s.dmac := push_dmac ..

@[simp] theorem pushPc_dmam (s : State) :
    (s.pushPc).dmam = s.dmam := push_dmam ..

@[simp] theorem pushPc_intnest (s : State) :
    (s.pushPc).intnest = s.intnest := push_intnest ..

@[simp] theorem pushPc_halted (s : State) :
    (s.pushPc).halted = s.halted := push_halted ..

@[simp] theorem pushPc_repeating (s : State) :
    (s.pushPc).repeating = s.repeating := push_repeating ..

@[simp] theorem pushPc_offers (s : State) :
    (s.pushPc).offers = s.offers := push_offers ..

@[simp] theorem pushPc_draws (s : State) :
    (s.pushPc).draws = s.draws := push_draws ..

@[simp] theorem pushPc_product (s : State) :
    (s.pushPc).product = s.product := push_product ..

@[simp] theorem popPc_banks (s : State) :
    (s.popPc).banks = s.banks := rfl

@[simp] theorem popPc_minBanks (s : State) :
    (s.popPc).minBanks = s.minBanks := rfl

@[simp] theorem popPc_xix (s : State) :
    (s.popPc).xix = s.xix := rfl

@[simp] theorem popPc_xiy (s : State) :
    (s.popPc).xiy = s.xiy := rfl

@[simp] theorem popPc_xiz (s : State) :
    (s.popPc).xiz = s.xiz := rfl

@[simp] theorem popPc_f (s : State) :
    (s.popPc).f = s.f := rfl

@[simp] theorem popPc_fAlt (s : State) :
    (s.popPc).fAlt = s.fAlt := rfl

@[simp] theorem popPc_iff (s : State) :
    (s.popPc).iff = s.iff := rfl

@[simp] theorem popPc_max (s : State) :
    (s.popPc).max = s.max := rfl

@[simp] theorem popPc_rfp (s : State) :
    (s.popPc).rfp = s.rfp := rfl

@[simp] theorem popPc_dmas (s : State) :
    (s.popPc).dmas = s.dmas := rfl

@[simp] theorem popPc_dmad (s : State) :
    (s.popPc).dmad = s.dmad := rfl

@[simp] theorem popPc_dmac (s : State) :
    (s.popPc).dmac = s.dmac := rfl

@[simp] theorem popPc_dmam (s : State) :
    (s.popPc).dmam = s.dmam := rfl

@[simp] theorem popPc_intnest (s : State) :
    (s.popPc).intnest = s.intnest := rfl

@[simp] theorem popPc_halted (s : State) :
    (s.popPc).halted = s.halted := rfl

@[simp] theorem popPc_repeating (s : State) :
    (s.popPc).repeating = s.repeating := rfl

@[simp] theorem popPc_mem (s : State) :
    (s.popPc).mem = s.mem := rfl

@[simp] theorem popPc_offers (s : State) :
    (s.popPc).offers = s.offers := rfl

@[simp] theorem popPc_draws (s : State) :
    (s.popPc).draws = s.draws := rfl

@[simp] theorem popPc_stores (s : State) :
    (s.popPc).stores = s.stores := rfl

@[simp] theorem popPc_product (s : State) :
    (s.popPc).product = s.product := rfl

/-! ## Status register, modes and exceptions -/

@[simp] theorem setRfp_banks (s : State) (v : BitVec 3) :
    (s.setRfp v).banks = s.banks := rfl

@[simp] theorem setRfp_minBanks (s : State) (v : BitVec 3) :
    (s.setRfp v).minBanks = s.minBanks := rfl

@[simp] theorem setRfp_xix (s : State) (v : BitVec 3) :
    (s.setRfp v).xix = s.xix := rfl

@[simp] theorem setRfp_xiy (s : State) (v : BitVec 3) :
    (s.setRfp v).xiy = s.xiy := rfl

@[simp] theorem setRfp_xiz (s : State) (v : BitVec 3) :
    (s.setRfp v).xiz = s.xiz := rfl

@[simp] theorem setRfp_xsp (s : State) (v : BitVec 3) :
    (s.setRfp v).xsp = s.xsp := rfl

@[simp] theorem setRfp_pc (s : State) (v : BitVec 3) :
    (s.setRfp v).pc = s.pc := rfl

@[simp] theorem setRfp_f (s : State) (v : BitVec 3) :
    (s.setRfp v).f = s.f := rfl

@[simp] theorem setRfp_fAlt (s : State) (v : BitVec 3) :
    (s.setRfp v).fAlt = s.fAlt := rfl

@[simp] theorem setRfp_iff (s : State) (v : BitVec 3) :
    (s.setRfp v).iff = s.iff := rfl

@[simp] theorem setRfp_max (s : State) (v : BitVec 3) :
    (s.setRfp v).max = s.max := rfl

@[simp] theorem setRfp_dmas (s : State) (v : BitVec 3) :
    (s.setRfp v).dmas = s.dmas := rfl

@[simp] theorem setRfp_dmad (s : State) (v : BitVec 3) :
    (s.setRfp v).dmad = s.dmad := rfl

@[simp] theorem setRfp_dmac (s : State) (v : BitVec 3) :
    (s.setRfp v).dmac = s.dmac := rfl

@[simp] theorem setRfp_dmam (s : State) (v : BitVec 3) :
    (s.setRfp v).dmam = s.dmam := rfl

@[simp] theorem setRfp_intnest (s : State) (v : BitVec 3) :
    (s.setRfp v).intnest = s.intnest := rfl

@[simp] theorem setRfp_halted (s : State) (v : BitVec 3) :
    (s.setRfp v).halted = s.halted := rfl

@[simp] theorem setRfp_repeating (s : State) (v : BitVec 3) :
    (s.setRfp v).repeating = s.repeating := rfl

@[simp] theorem setRfp_mem (s : State) (v : BitVec 3) :
    (s.setRfp v).mem = s.mem := rfl

@[simp] theorem setRfp_offers (s : State) (v : BitVec 3) :
    (s.setRfp v).offers = s.offers := rfl

@[simp] theorem setRfp_draws (s : State) (v : BitVec 3) :
    (s.setRfp v).draws = s.draws := rfl

@[simp] theorem setRfp_stores (s : State) (v : BitVec 3) :
    (s.setRfp v).stores = s.stores := rfl

@[simp] theorem setRfp_product (s : State) (v : BitVec 3) :
    (s.setRfp v).product = s.product := rfl

@[simp] theorem changeMode_xix (s : State) (b : Bool) :
    (s.changeMode b).xix = s.xix := by
  unfold State.changeMode; split
  · rfl
  · split <;> rfl

@[simp] theorem changeMode_xiy (s : State) (b : Bool) :
    (s.changeMode b).xiy = s.xiy := by
  unfold State.changeMode; split
  · rfl
  · split <;> rfl

@[simp] theorem changeMode_xiz (s : State) (b : Bool) :
    (s.changeMode b).xiz = s.xiz := by
  unfold State.changeMode; split
  · rfl
  · split <;> rfl

@[simp] theorem changeMode_xsp (s : State) (b : Bool) :
    (s.changeMode b).xsp = s.xsp := by
  unfold State.changeMode; split
  · rfl
  · split <;> rfl

@[simp] theorem changeMode_f (s : State) (b : Bool) :
    (s.changeMode b).f = s.f := by
  unfold State.changeMode; split
  · rfl
  · split <;> rfl

@[simp] theorem changeMode_fAlt (s : State) (b : Bool) :
    (s.changeMode b).fAlt = s.fAlt := by
  unfold State.changeMode; split
  · rfl
  · split <;> rfl

@[simp] theorem changeMode_iff (s : State) (b : Bool) :
    (s.changeMode b).iff = s.iff := by
  unfold State.changeMode; split
  · rfl
  · split <;> rfl

@[simp] theorem changeMode_dmas (s : State) (b : Bool) :
    (s.changeMode b).dmas = s.dmas := by
  unfold State.changeMode; split
  · rfl
  · split <;> rfl

@[simp] theorem changeMode_dmad (s : State) (b : Bool) :
    (s.changeMode b).dmad = s.dmad := by
  unfold State.changeMode; split
  · rfl
  · split <;> rfl

@[simp] theorem changeMode_dmac (s : State) (b : Bool) :
    (s.changeMode b).dmac = s.dmac := by
  unfold State.changeMode; split
  · rfl
  · split <;> rfl

@[simp] theorem changeMode_dmam (s : State) (b : Bool) :
    (s.changeMode b).dmam = s.dmam := by
  unfold State.changeMode; split
  · rfl
  · split <;> rfl

@[simp] theorem changeMode_intnest (s : State) (b : Bool) :
    (s.changeMode b).intnest = s.intnest := by
  unfold State.changeMode; split
  · rfl
  · split <;> rfl

@[simp] theorem changeMode_halted (s : State) (b : Bool) :
    (s.changeMode b).halted = s.halted := by
  unfold State.changeMode; split
  · rfl
  · split <;> rfl

@[simp] theorem changeMode_repeating (s : State) (b : Bool) :
    (s.changeMode b).repeating = s.repeating := by
  unfold State.changeMode; split
  · rfl
  · split <;> rfl

@[simp] theorem changeMode_mem (s : State) (b : Bool) :
    (s.changeMode b).mem = s.mem := by
  unfold State.changeMode; split
  · rfl
  · split <;> rfl

@[simp] theorem changeMode_offers (s : State) (b : Bool) :
    (s.changeMode b).offers = s.offers := by
  unfold State.changeMode; split
  · rfl
  · split <;> rfl

@[simp] theorem changeMode_stores (s : State) (b : Bool) :
    (s.changeMode b).stores = s.stores := by
  unfold State.changeMode; split
  · rfl
  · split <;> rfl

@[simp] theorem changeMode_product (s : State) (b : Bool) :
    (s.changeMode b).product = s.product := by
  unfold State.changeMode; split
  · rfl
  · split <;> rfl

@[simp] theorem saveSrThenPc_banks (s : State) :
    (s.saveSrThenPc).banks = s.banks := by
  simp [State.saveSrThenPc]

@[simp] theorem saveSrThenPc_minBanks (s : State) :
    (s.saveSrThenPc).minBanks = s.minBanks := by
  simp [State.saveSrThenPc]

@[simp] theorem saveSrThenPc_xix (s : State) :
    (s.saveSrThenPc).xix = s.xix := by
  simp [State.saveSrThenPc]

@[simp] theorem saveSrThenPc_xiy (s : State) :
    (s.saveSrThenPc).xiy = s.xiy := by
  simp [State.saveSrThenPc]

@[simp] theorem saveSrThenPc_xiz (s : State) :
    (s.saveSrThenPc).xiz = s.xiz := by
  simp [State.saveSrThenPc]

@[simp] theorem saveSrThenPc_pc (s : State) :
    (s.saveSrThenPc).pc = s.pc := by
  simp [State.saveSrThenPc]

@[simp] theorem saveSrThenPc_f (s : State) :
    (s.saveSrThenPc).f = s.f := by
  simp [State.saveSrThenPc]

@[simp] theorem saveSrThenPc_fAlt (s : State) :
    (s.saveSrThenPc).fAlt = s.fAlt := by
  simp [State.saveSrThenPc]

@[simp] theorem saveSrThenPc_iff (s : State) :
    (s.saveSrThenPc).iff = s.iff := by
  simp [State.saveSrThenPc]

@[simp] theorem saveSrThenPc_max (s : State) :
    (s.saveSrThenPc).max = s.max := by
  simp [State.saveSrThenPc]

@[simp] theorem saveSrThenPc_rfp (s : State) :
    (s.saveSrThenPc).rfp = s.rfp := by
  simp [State.saveSrThenPc]

@[simp] theorem saveSrThenPc_dmas (s : State) :
    (s.saveSrThenPc).dmas = s.dmas := by
  simp [State.saveSrThenPc]

@[simp] theorem saveSrThenPc_dmad (s : State) :
    (s.saveSrThenPc).dmad = s.dmad := by
  simp [State.saveSrThenPc]

@[simp] theorem saveSrThenPc_dmac (s : State) :
    (s.saveSrThenPc).dmac = s.dmac := by
  simp [State.saveSrThenPc]

@[simp] theorem saveSrThenPc_dmam (s : State) :
    (s.saveSrThenPc).dmam = s.dmam := by
  simp [State.saveSrThenPc]

@[simp] theorem saveSrThenPc_intnest (s : State) :
    (s.saveSrThenPc).intnest = s.intnest := by
  simp [State.saveSrThenPc]

@[simp] theorem saveSrThenPc_halted (s : State) :
    (s.saveSrThenPc).halted = s.halted := by
  simp [State.saveSrThenPc]

@[simp] theorem saveSrThenPc_repeating (s : State) :
    (s.saveSrThenPc).repeating = s.repeating := by
  simp [State.saveSrThenPc]

@[simp] theorem saveSrThenPc_offers (s : State) :
    (s.saveSrThenPc).offers = s.offers := by
  simp [State.saveSrThenPc]

@[simp] theorem saveSrThenPc_draws (s : State) :
    (s.saveSrThenPc).draws = s.draws := by
  simp [State.saveSrThenPc]

@[simp] theorem saveSrThenPc_product (s : State) :
    (s.saveSrThenPc).product = s.product := by
  simp [State.saveSrThenPc]

@[simp] theorem savePcThenSr_banks (s : State) :
    (s.savePcThenSr).banks = s.banks := by
  simp [State.savePcThenSr]

@[simp] theorem savePcThenSr_minBanks (s : State) :
    (s.savePcThenSr).minBanks = s.minBanks := by
  simp [State.savePcThenSr]

@[simp] theorem savePcThenSr_xix (s : State) :
    (s.savePcThenSr).xix = s.xix := by
  simp [State.savePcThenSr]

@[simp] theorem savePcThenSr_xiy (s : State) :
    (s.savePcThenSr).xiy = s.xiy := by
  simp [State.savePcThenSr]

@[simp] theorem savePcThenSr_xiz (s : State) :
    (s.savePcThenSr).xiz = s.xiz := by
  simp [State.savePcThenSr]

@[simp] theorem savePcThenSr_pc (s : State) :
    (s.savePcThenSr).pc = s.pc := by
  simp [State.savePcThenSr]

@[simp] theorem savePcThenSr_f (s : State) :
    (s.savePcThenSr).f = s.f := by
  simp [State.savePcThenSr]

@[simp] theorem savePcThenSr_fAlt (s : State) :
    (s.savePcThenSr).fAlt = s.fAlt := by
  simp [State.savePcThenSr]

@[simp] theorem savePcThenSr_iff (s : State) :
    (s.savePcThenSr).iff = s.iff := by
  simp [State.savePcThenSr]

@[simp] theorem savePcThenSr_max (s : State) :
    (s.savePcThenSr).max = s.max := by
  simp [State.savePcThenSr]

@[simp] theorem savePcThenSr_rfp (s : State) :
    (s.savePcThenSr).rfp = s.rfp := by
  simp [State.savePcThenSr]

@[simp] theorem savePcThenSr_dmas (s : State) :
    (s.savePcThenSr).dmas = s.dmas := by
  simp [State.savePcThenSr]

@[simp] theorem savePcThenSr_dmad (s : State) :
    (s.savePcThenSr).dmad = s.dmad := by
  simp [State.savePcThenSr]

@[simp] theorem savePcThenSr_dmac (s : State) :
    (s.savePcThenSr).dmac = s.dmac := by
  simp [State.savePcThenSr]

@[simp] theorem savePcThenSr_dmam (s : State) :
    (s.savePcThenSr).dmam = s.dmam := by
  simp [State.savePcThenSr]

@[simp] theorem savePcThenSr_intnest (s : State) :
    (s.savePcThenSr).intnest = s.intnest := by
  simp [State.savePcThenSr]

@[simp] theorem savePcThenSr_halted (s : State) :
    (s.savePcThenSr).halted = s.halted := by
  simp [State.savePcThenSr]

@[simp] theorem savePcThenSr_repeating (s : State) :
    (s.savePcThenSr).repeating = s.repeating := by
  simp [State.savePcThenSr]

@[simp] theorem savePcThenSr_offers (s : State) :
    (s.savePcThenSr).offers = s.offers := by
  simp [State.savePcThenSr]

@[simp] theorem savePcThenSr_draws (s : State) :
    (s.savePcThenSr).draws = s.draws := by
  simp [State.savePcThenSr]

@[simp] theorem savePcThenSr_product (s : State) :
    (s.savePcThenSr).product = s.product := by
  simp [State.savePcThenSr]

@[simp] theorem enterException_banks (s : State) (V : BitVec 24) :
    (s.enterException V).banks = s.banks := rfl

@[simp] theorem enterException_minBanks (s : State) (V : BitVec 24) :
    (s.enterException V).minBanks = s.minBanks := rfl

@[simp] theorem enterException_xix (s : State) (V : BitVec 24) :
    (s.enterException V).xix = s.xix := rfl

@[simp] theorem enterException_xiy (s : State) (V : BitVec 24) :
    (s.enterException V).xiy = s.xiy := rfl

@[simp] theorem enterException_xiz (s : State) (V : BitVec 24) :
    (s.enterException V).xiz = s.xiz := rfl

@[simp] theorem enterException_xsp (s : State) (V : BitVec 24) :
    (s.enterException V).xsp = s.xsp := rfl

@[simp] theorem enterException_f (s : State) (V : BitVec 24) :
    (s.enterException V).f = s.f := rfl

@[simp] theorem enterException_fAlt (s : State) (V : BitVec 24) :
    (s.enterException V).fAlt = s.fAlt := rfl

@[simp] theorem enterException_iff (s : State) (V : BitVec 24) :
    (s.enterException V).iff = s.iff := rfl

@[simp] theorem enterException_max (s : State) (V : BitVec 24) :
    (s.enterException V).max = s.max := rfl

@[simp] theorem enterException_rfp (s : State) (V : BitVec 24) :
    (s.enterException V).rfp = s.rfp := rfl

@[simp] theorem enterException_dmas (s : State) (V : BitVec 24) :
    (s.enterException V).dmas = s.dmas := rfl

@[simp] theorem enterException_dmad (s : State) (V : BitVec 24) :
    (s.enterException V).dmad = s.dmad := rfl

@[simp] theorem enterException_dmac (s : State) (V : BitVec 24) :
    (s.enterException V).dmac = s.dmac := rfl

@[simp] theorem enterException_dmam (s : State) (V : BitVec 24) :
    (s.enterException V).dmam = s.dmam := rfl

@[simp] theorem enterException_halted (s : State) (V : BitVec 24) :
    (s.enterException V).halted = s.halted := rfl

@[simp] theorem enterException_repeating (s : State) (V : BitVec 24) :
    (s.enterException V).repeating = s.repeating := rfl

@[simp] theorem enterException_mem (s : State) (V : BitVec 24) :
    (s.enterException V).mem = s.mem := rfl

@[simp] theorem enterException_offers (s : State) (V : BitVec 24) :
    (s.enterException V).offers = s.offers := rfl

@[simp] theorem enterException_draws (s : State) (V : BitVec 24) :
    (s.enterException V).draws = s.draws := rfl

@[simp] theorem enterException_stores (s : State) (V : BitVec 24) :
    (s.enterException V).stores = s.stores := rfl

@[simp] theorem enterException_product (s : State) (V : BitVec 24) :
    (s.enterException V).product = s.product := rfl

@[simp] theorem setCreg_banks (s : State) (c : CReg) (v : Word32) :
    (s.setCreg c v).banks = s.banks := by
  cases c <;> rfl

@[simp] theorem setCreg_minBanks (s : State) (c : CReg) (v : Word32) :
    (s.setCreg c v).minBanks = s.minBanks := by
  cases c <;> rfl

@[simp] theorem setCreg_xix (s : State) (c : CReg) (v : Word32) :
    (s.setCreg c v).xix = s.xix := by
  cases c <;> rfl

@[simp] theorem setCreg_xiy (s : State) (c : CReg) (v : Word32) :
    (s.setCreg c v).xiy = s.xiy := by
  cases c <;> rfl

@[simp] theorem setCreg_xiz (s : State) (c : CReg) (v : Word32) :
    (s.setCreg c v).xiz = s.xiz := by
  cases c <;> rfl

@[simp] theorem setCreg_xsp (s : State) (c : CReg) (v : Word32) :
    (s.setCreg c v).xsp = s.xsp := by
  cases c <;> rfl

@[simp] theorem setCreg_pc (s : State) (c : CReg) (v : Word32) :
    (s.setCreg c v).pc = s.pc := by
  cases c <;> rfl

@[simp] theorem setCreg_f (s : State) (c : CReg) (v : Word32) :
    (s.setCreg c v).f = s.f := by
  cases c <;> rfl

@[simp] theorem setCreg_fAlt (s : State) (c : CReg) (v : Word32) :
    (s.setCreg c v).fAlt = s.fAlt := by
  cases c <;> rfl

@[simp] theorem setCreg_iff (s : State) (c : CReg) (v : Word32) :
    (s.setCreg c v).iff = s.iff := by
  cases c <;> rfl

@[simp] theorem setCreg_max (s : State) (c : CReg) (v : Word32) :
    (s.setCreg c v).max = s.max := by
  cases c <;> rfl

@[simp] theorem setCreg_rfp (s : State) (c : CReg) (v : Word32) :
    (s.setCreg c v).rfp = s.rfp := by
  cases c <;> rfl

@[simp] theorem setCreg_halted (s : State) (c : CReg) (v : Word32) :
    (s.setCreg c v).halted = s.halted := by
  cases c <;> rfl

@[simp] theorem setCreg_repeating (s : State) (c : CReg) (v : Word32) :
    (s.setCreg c v).repeating = s.repeating := by
  cases c <;> rfl

@[simp] theorem setCreg_mem (s : State) (c : CReg) (v : Word32) :
    (s.setCreg c v).mem = s.mem := by
  cases c <;> rfl

@[simp] theorem setCreg_offers (s : State) (c : CReg) (v : Word32) :
    (s.setCreg c v).offers = s.offers := by
  cases c <;> rfl

@[simp] theorem setCreg_draws (s : State) (c : CReg) (v : Word32) :
    (s.setCreg c v).draws = s.draws := by
  cases c <;> rfl

@[simp] theorem setCreg_stores (s : State) (c : CReg) (v : Word32) :
    (s.setCreg c v).stores = s.stores := by
  cases c <;> rfl

@[simp] theorem setCreg_product (s : State) (c : CReg) (v : Word32) :
    (s.setCreg c v).product = s.product := by
  cases c <;> rfl

@[simp] theorem countDown_pc (s : State) :
    (s.countDown).pc = s.pc := setReg_pc ..

@[simp] theorem countDown_f (s : State) :
    (s.countDown).f = s.f := setReg_f ..

@[simp] theorem countDown_fAlt (s : State) :
    (s.countDown).fAlt = s.fAlt := setReg_fAlt ..

@[simp] theorem countDown_iff (s : State) :
    (s.countDown).iff = s.iff := setReg_iff ..

@[simp] theorem countDown_max (s : State) :
    (s.countDown).max = s.max := setReg_max ..

@[simp] theorem countDown_rfp (s : State) :
    (s.countDown).rfp = s.rfp := setReg_rfp ..

@[simp] theorem countDown_dmas (s : State) :
    (s.countDown).dmas = s.dmas := setReg_dmas ..

@[simp] theorem countDown_dmad (s : State) :
    (s.countDown).dmad = s.dmad := setReg_dmad ..

@[simp] theorem countDown_dmac (s : State) :
    (s.countDown).dmac = s.dmac := setReg_dmac ..

@[simp] theorem countDown_dmam (s : State) :
    (s.countDown).dmam = s.dmam := setReg_dmam ..

@[simp] theorem countDown_intnest (s : State) :
    (s.countDown).intnest = s.intnest := setReg_intnest ..

@[simp] theorem countDown_halted (s : State) :
    (s.countDown).halted = s.halted := setReg_halted ..

@[simp] theorem countDown_repeating (s : State) :
    (s.countDown).repeating = s.repeating := setReg_repeating ..

@[simp] theorem countDown_mem (s : State) :
    (s.countDown).mem = s.mem := setReg_mem ..

@[simp] theorem countDown_offers (s : State) :
    (s.countDown).offers = s.offers := setReg_offers ..

@[simp] theorem countDown_draws (s : State) :
    (s.countDown).draws = s.draws := setReg_draws ..

@[simp] theorem countDown_stores (s : State) :
    (s.countDown).stores = s.stores := setReg_stores ..

@[simp] theorem countDown_product (s : State) :
    (s.countDown).product = s.product := setReg_product ..

@[simp] theorem blockFlags_banks (s : State) :
    (s.blockFlags).banks = s.banks := rfl

@[simp] theorem blockFlags_minBanks (s : State) :
    (s.blockFlags).minBanks = s.minBanks := rfl

@[simp] theorem blockFlags_xix (s : State) :
    (s.blockFlags).xix = s.xix := rfl

@[simp] theorem blockFlags_xiy (s : State) :
    (s.blockFlags).xiy = s.xiy := rfl

@[simp] theorem blockFlags_xiz (s : State) :
    (s.blockFlags).xiz = s.xiz := rfl

@[simp] theorem blockFlags_xsp (s : State) :
    (s.blockFlags).xsp = s.xsp := rfl

@[simp] theorem blockFlags_pc (s : State) :
    (s.blockFlags).pc = s.pc := rfl

@[simp] theorem blockFlags_fAlt (s : State) :
    (s.blockFlags).fAlt = s.fAlt := rfl

@[simp] theorem blockFlags_iff (s : State) :
    (s.blockFlags).iff = s.iff := rfl

@[simp] theorem blockFlags_max (s : State) :
    (s.blockFlags).max = s.max := rfl

@[simp] theorem blockFlags_rfp (s : State) :
    (s.blockFlags).rfp = s.rfp := rfl

@[simp] theorem blockFlags_dmas (s : State) :
    (s.blockFlags).dmas = s.dmas := rfl

@[simp] theorem blockFlags_dmad (s : State) :
    (s.blockFlags).dmad = s.dmad := rfl

@[simp] theorem blockFlags_dmac (s : State) :
    (s.blockFlags).dmac = s.dmac := rfl

@[simp] theorem blockFlags_dmam (s : State) :
    (s.blockFlags).dmam = s.dmam := rfl

@[simp] theorem blockFlags_intnest (s : State) :
    (s.blockFlags).intnest = s.intnest := rfl

@[simp] theorem blockFlags_halted (s : State) :
    (s.blockFlags).halted = s.halted := rfl

@[simp] theorem blockFlags_repeating (s : State) :
    (s.blockFlags).repeating = s.repeating := rfl

@[simp] theorem blockFlags_mem (s : State) :
    (s.blockFlags).mem = s.mem := rfl

@[simp] theorem blockFlags_offers (s : State) :
    (s.blockFlags).offers = s.offers := rfl

@[simp] theorem blockFlags_draws (s : State) :
    (s.blockFlags).draws = s.draws := rfl

@[simp] theorem blockFlags_stores (s : State) :
    (s.blockFlags).stores = s.stores := rfl

@[simp] theorem blockFlags_product (s : State) :
    (s.blockFlags).product = s.product := rfl

@[simp] theorem compareFlags_banks (s : State) (g : Flags) :
    (s.compareFlags g).banks = s.banks := rfl

@[simp] theorem compareFlags_minBanks (s : State) (g : Flags) :
    (s.compareFlags g).minBanks = s.minBanks := rfl

@[simp] theorem compareFlags_xix (s : State) (g : Flags) :
    (s.compareFlags g).xix = s.xix := rfl

@[simp] theorem compareFlags_xiy (s : State) (g : Flags) :
    (s.compareFlags g).xiy = s.xiy := rfl

@[simp] theorem compareFlags_xiz (s : State) (g : Flags) :
    (s.compareFlags g).xiz = s.xiz := rfl

@[simp] theorem compareFlags_xsp (s : State) (g : Flags) :
    (s.compareFlags g).xsp = s.xsp := rfl

@[simp] theorem compareFlags_pc (s : State) (g : Flags) :
    (s.compareFlags g).pc = s.pc := rfl

@[simp] theorem compareFlags_fAlt (s : State) (g : Flags) :
    (s.compareFlags g).fAlt = s.fAlt := rfl

@[simp] theorem compareFlags_iff (s : State) (g : Flags) :
    (s.compareFlags g).iff = s.iff := rfl

@[simp] theorem compareFlags_max (s : State) (g : Flags) :
    (s.compareFlags g).max = s.max := rfl

@[simp] theorem compareFlags_rfp (s : State) (g : Flags) :
    (s.compareFlags g).rfp = s.rfp := rfl

@[simp] theorem compareFlags_dmas (s : State) (g : Flags) :
    (s.compareFlags g).dmas = s.dmas := rfl

@[simp] theorem compareFlags_dmad (s : State) (g : Flags) :
    (s.compareFlags g).dmad = s.dmad := rfl

@[simp] theorem compareFlags_dmac (s : State) (g : Flags) :
    (s.compareFlags g).dmac = s.dmac := rfl

@[simp] theorem compareFlags_dmam (s : State) (g : Flags) :
    (s.compareFlags g).dmam = s.dmam := rfl

@[simp] theorem compareFlags_intnest (s : State) (g : Flags) :
    (s.compareFlags g).intnest = s.intnest := rfl

@[simp] theorem compareFlags_halted (s : State) (g : Flags) :
    (s.compareFlags g).halted = s.halted := rfl

@[simp] theorem compareFlags_repeating (s : State) (g : Flags) :
    (s.compareFlags g).repeating = s.repeating := rfl

@[simp] theorem compareFlags_mem (s : State) (g : Flags) :
    (s.compareFlags g).mem = s.mem := rfl

@[simp] theorem compareFlags_offers (s : State) (g : Flags) :
    (s.compareFlags g).offers = s.offers := rfl

@[simp] theorem compareFlags_draws (s : State) (g : Flags) :
    (s.compareFlags g).draws = s.draws := rfl

@[simp] theorem compareFlags_stores (s : State) (g : Flags) :
    (s.compareFlags g).stores = s.stores := rfl

@[simp] theorem compareFlags_product (s : State) (g : Flags) :
    (s.compareFlags g).product = s.product := rfl

/-! ## The registers of a state whose other fields change -/

@[simp] theorem drawn_reg (s : State) (n : Nat) (p : PReg) : (s.drawn n).reg p = s.reg p := by
  cases p with
  | bank n k => rfl
  | fixed j => cases j <;> rfl

@[simp] theorem setByte_reg (s : State) (a : Word32) (v : Byte) (p : PReg) :
    (s.setByte a v).reg p = s.reg p := by
  cases p with
  | bank n k => rfl
  | fixed j => cases j <;> rfl

@[simp] theorem memWrite_reg (s : State) (sz : Size) (a : Word32) (v : BitVec sz.bits)
    (p : PReg) : (s.memWrite sz a v).reg p = s.reg p := by
  cases sz <;> simp [State.memWrite]

@[simp] theorem jump_reg (s : State) (t : Word32) (p : PReg) : (s.jump t).reg p = s.reg p := by
  cases p with
  | bank n k => rfl
  | fixed j => cases j <;> rfl

@[simp] theorem advance_reg (s : State) (n : Nat) (p : PReg) :
    (s.advance n).reg p = s.reg p := by
  cases p with
  | bank n k => rfl
  | fixed j => cases j <;> rfl

@[simp] theorem begun_reg (s : State) (p : PReg) : s.begun.reg p = s.reg p := by
  cases p with
  | bank n k => rfl
  | fixed j => cases j <;> rfl

@[simp] theorem begun_draws (s : State) : s.begun.draws = s.draws + 1 := rfl

@[simp] theorem begun_stores (s : State) : s.begun.stores = [] := rfl

@[simp] theorem setByte_stores (s : State) (a : Word32) (v : Byte) :
    (s.setByte a v).stores = s.stores ++ [(a, v)] := rfl

@[simp] theorem advance_stores (s : State) (n : Nat) : (s.advance n).stores = [] := rfl

@[simp] theorem drawn_draws (s : State) (n : Nat) : (s.drawn n).draws = s.draws + n := rfl

@[simp] theorem jump_pc (s : State) (t : Word32) : (s.jump t).pc = s.pcOf t := rfl

@[simp] theorem advance_pc (s : State) (n : Nat) : (s.advance n).pc = s.fetchAddr n := rfl

@[simp] theorem advance_draws (s : State) (n : Nat) : (s.advance n).draws = s.draws + 1 := rfl

@[simp] theorem advance_repeating (s : State) (n : Nat) : (s.advance n).repeating = none := rfl

@[simp] theorem again_reg (s : State) (i : Repeating) (p : PReg) :
    (s.again i).reg p = s.reg p := by
  cases p with
  | bank n k => rfl
  | fixed j => cases j <;> rfl

@[simp] theorem again_pc (s : State) (i : Repeating) : (s.again i).pc = s.pcOf (s.pc - 2) := rfl

@[simp] theorem again_repeating (s : State) (i : Repeating) :
    (s.again i).repeating = some i := rfl

@[simp] theorem popped_xsp (s : State) (sz : Size) :
    (s.popped sz).xsp = s.xsp + byteCount sz := rfl

@[simp] theorem push_xsp (s : State) (sz : Size) (v : BitVec sz.bits) :
    (s.push sz v).xsp = s.xsp - byteCount sz := by
  simp [State.push]

@[simp] theorem saveSrThenPc_xsp (s : State) :
    s.saveSrThenPc.xsp = s.xsp - byteCount s.pcSize - 2 := by
  simp [State.saveSrThenPc]

@[simp] theorem savePcThenSr_xsp (s : State) :
    s.savePcThenSr.xsp = s.xsp - byteCount s.pcSize - 2 := by
  simp [State.savePcThenSr, State.pushPc]
  rfl

@[simp] theorem setRfp_rfp (s : State) (v : BitVec 3) : (s.setRfp v).rfp = rfpIn s.max v := rfl

@[simp] theorem changeMode_max (s : State) (b : Bool) : (s.changeMode b).max = b := by
  unfold State.changeMode
  split
  · simp_all
  · split <;> simp_all

end Sys2Proof.Machine
end

