-- ==== Sys2Proof/Laws/Memory.lean ====
section
/-!
SUPPORT. Memory: its canonical form and reading after writing, byte by byte.
-/

namespace Sys2Proof.Machine

theorem cellOf_lt (a : Word32) : cellOf a < 2 ^ 24 := (a.setWidth 24).isLt

/-! ## One byte -/

/-- A read after a write of the same address gives the value written. -/
theorem Memory.read_write_same (m : Memory) (a : Nat) (v : Byte) (h : Memory.wf m = true) :
    (Memory.write m a v).read a = v := by
  induction m with
  | nil =>
    unfold Memory.write
    split <;> simp_all [Memory.read]
  | cons c t ih =>
    obtain ⟨b, w⟩ := c
    simp only [Memory.wf, Bool.and_eq_true, decide_eq_true_eq, List.all_eq_true] at h
    obtain ⟨⟨⟨-, -⟩, hall⟩, ht⟩ := h
    have absent : ∀ l : Memory, (∀ c ∈ l, a < c.1) → Memory.read l a = Memory.unlisted := by
      intro l
      induction l with
      | nil => intro _; rfl
      | cons c l ih2 =>
        obtain ⟨x, y⟩ := c
        intro hl
        have h1 : a < x := hl (x, y) (by simp)
        have h2 := ih2 fun c hc => hl c (by simp [hc])
        simp [Memory.read, h2, Nat.ne_of_lt h1]
    unfold Memory.write
    split
    · rename_i hab
      split
      · rename_i hv
        rw [hv]
        refine absent _ ?_
        intro c hc
        rcases List.mem_cons.mp hc with rfl | hc
        · exact hab
        · exact Nat.lt_trans hab (hall c hc)
      · simp [Memory.read]
    · split
      · rename_i hab
        subst hab
        split
        · rename_i hv
          rw [hv]
          exact absent _ hall
        · simp [Memory.read]
      · rename_i hne
        simp [Memory.read, hne, ih ht]

/-- A write leaves every other address alone. -/
theorem Memory.read_write_other (m : Memory) (a b : Nat) (v : Byte) (h : b ≠ a) :
    (Memory.write m a v).read b = m.read b := by
  induction m with
  | nil =>
    unfold Memory.write
    split <;> simp [Memory.read, h]
  | cons c t ih =>
    obtain ⟨x, w⟩ := c
    unfold Memory.write
    split
    · split <;> simp [Memory.read, h]
    · split
      · rename_i hax
        subst hax
        split <;> simp [Memory.read, h]
      · by_cases hb : b = x <;> simp [Memory.read, hb, ih]

/-! ## The canonical form -/

/-- A write adds no address but its own. -/
theorem Memory.mem_write (m : Memory) (a : Nat) (v : Byte) (c : Host.Cell)
    (hc : c ∈ Memory.write m a v) : c.1 = a ∨ c ∈ m := by
  induction m with
  | nil =>
    unfold Memory.write at hc
    split at hc <;> simp_all
  | cons d t ih =>
    obtain ⟨x, w⟩ := d
    unfold Memory.write at hc
    split at hc
    · split at hc <;> (simp_all; try aesop)
    · split at hc
      · split at hc <;> (simp_all; try aesop)
      · simp only [List.mem_cons] at hc ⊢
        rcases hc with rfl | hc
        · exact .inr (.inl rfl)
        · rcases ih hc with h | h
          · exact .inl h
          · exact .inr (.inr h)

/-- Every write keeps the canonical form. -/
theorem Memory.wf_write (m : Memory) (a : Nat) (v : Byte) (ha : a < 2 ^ 24)
    (h : Memory.wf m = true) : Memory.wf (Memory.write m a v) = true := by
  induction m with
  | nil =>
    unfold Memory.write
    split
    · rfl
    · simp_all [Memory.wf]
  | cons c t ih =>
    obtain ⟨b, w⟩ := c
    have h0 := h
    simp only [Memory.wf, Bool.and_eq_true, decide_eq_true_eq, List.all_eq_true] at h
    obtain ⟨⟨⟨hb, hw⟩, hall⟩, ht⟩ := h
    unfold Memory.write
    split
    · rename_i hab
      split
      · exact h0
      · rename_i hv
        rw [Memory.wf]
        simp only [Bool.and_eq_true, decide_eq_true_eq, List.all_eq_true]
        refine ⟨⟨⟨ha, hv⟩, ?_⟩, h0⟩
        intro c hc
        rcases List.mem_cons.mp hc with rfl | hc
        · exact hab
        · exact Nat.lt_trans hab (hall c hc)
    · rename_i hnlt
      split
      · rename_i hab
        subst hab
        split
        · exact ht
        · rename_i hv
          simp only [Memory.wf, Bool.and_eq_true, decide_eq_true_eq, List.all_eq_true]
          exact ⟨⟨⟨hb, hv⟩, hall⟩, ht⟩
      · rename_i hne
        simp only [Memory.wf, Bool.and_eq_true, decide_eq_true_eq, List.all_eq_true]
        refine ⟨⟨⟨hb, hw⟩, ?_⟩, ih ht⟩
        intro c hc
        rcases Memory.mem_write t a v c hc with hca | hct
        · omega
        · exact hall c hct

theorem reset_memory_wf : Memory.wf State.reset.mem = true := rfl

theorem setByte_wf (s : State) (a : Word32) (v : Byte) (h : Memory.wf s.mem = true) :
    Memory.wf (s.setByte a v).mem = true := by
  simp only [State.setByte]
  split
  · exact Memory.wf_write _ _ _ (cellOf_lt a) h
  · exact h

theorem memWrite_wf (s : State) (sz : Size) (a : Word32) (v : BitVec sz.bits)
    (h : Memory.wf s.mem = true) : Memory.wf (s.memWrite sz a v).mem = true := by
  cases sz with
  | B => exact setByte_wf _ _ _ h
  | W => exact setByte_wf _ _ _ (setByte_wf _ _ _ h)
  | L => exact setByte_wf _ _ _ (setByte_wf _ _ _ (setByte_wf _ _ _ (setByte_wf _ _ _ h)))

theorem push_wf (s : State) (sz : Size) (v : BitVec sz.bits) (h : Memory.wf s.mem = true) :
    Memory.wf (s.push sz v).mem = true :=
  memWrite_wf _ _ _ _ h

theorem placeBytes_wf (bs : List Byte) (s : State) (i : Nat) (h : Memory.wf s.mem = true) :
    Memory.wf (s.placeBytes i bs).mem = true := by
  induction bs generalizing s i with
  | nil => exact h
  | cons b bs ih => exact ih _ _ (Memory.wf_write _ _ _ (cellOf_lt _) h)

theorem microDma_wf (s : State) (n : BitVec 2) (mode : DmaMode) (sz : Size)
    (h : Memory.wf s.mem = true) : Memory.wf (s.microDma n mode sz).mem = true := by
  cases mode <;> simp only [State.microDma, drawn_mem, setCreg_mem] <;>
    first | exact memWrite_wf _ _ _ _ h | exact h

@[simp] theorem replay_offers (l : List (Word32 × Byte)) (s : State) :
    (s.replay l).offers = s.offers := by
  induction l generalizing s with
  | nil => rfl
  | cons c l ih => exact ih _

@[simp] theorem replay_product (l : List (Word32 × Byte)) (s : State) :
    (s.replay l).product = s.product := by
  induction l generalizing s with
  | nil => rfl
  | cons c l ih => exact ih _

/-- Memory after any stores in sequence. -/
theorem replay_wf (l : List (Word32 × Byte)) (s : State) (h : Memory.wf s.mem = true) :
    Memory.wf (s.replay l).mem = true := by
  induction l generalizing s with
  | nil => exact h
  | cons c l ih => exact ih _ (setByte_wf s c.1 c.2 h)

/-! ## The order of stores (20_memory.md R55) -/

/-- The byte stores of an access, low address first. -/
theorem memWrite_stores (s : State) (sz : Size) (a : Word32) (v : BitVec sz.bits) :
    (s.memWrite sz a v).stores = s.stores ++ byteStores sz a v := by
  cases sz <;> simp [State.memWrite, byteStores, Size.bytes, List.range, List.range.loop]

/-- A push stores under the old XSP. -/
theorem push_stores (s : State) (sz : Size) (v : BitVec sz.bits) :
    (s.push sz v).stores = s.stores ++ byteStores sz (s.xsp - byteCount sz) v :=
  memWrite_stores _ _ _ _

/-- The frame of an interrupt is stored with the pc first. -/
theorem savePcThenSr_stores (s : State) :
    s.savePcThenSr.stores =
      s.stores ++ byteStores s.pcSize (s.xsp - byteCount s.pcSize) (s.pc.setWidth _) ++
        byteStores .W (s.xsp - byteCount s.pcSize - 2) s.sr := by
  have h : s.pushPc.xsp = s.xsp - byteCount s.pcSize := by simp [State.pushPc]
  rw [State.savePcThenSr, push_stores, h, State.pushPc, push_stores]
  rfl

/-- The frame of SWI is stored with SR first. -/
theorem saveSrThenPc_stores (s : State) :
    s.saveSrThenPc.stores =
      s.stores ++ byteStores .W (s.xsp - byteCount s.pcSize - 2) s.sr ++
        byteStores s.pcSize (s.xsp - byteCount s.pcSize - 2 + 2) (s.pc.setWidth _) := by
  rw [State.saveSrThenPc, memWrite_stores, memWrite_stores]

/-! ## A byte of the state -/

/-- What an address holds is the product's. -/
theorem area_congr {s t : State} (h : t.product = s.product) (a : Word32) :
    t.area a = s.area a := by
  simp only [State.area, h]

theorem isMemory_congr {s t : State} (h : t.product = s.product) (a : Word32) :
    t.isMemory a = s.isMemory a := by
  simp only [State.isMemory, area_congr h]

theorem isMemory_of_ram {s : State} {a : Word32} (h : s.area a = .ram) :
    s.isMemory a = true := by
  simp [State.isMemory, h]

/-- A read of RAM or ROM gives the byte that memory holds. -/
theorem byte_of_isMemory {s : State} {a : Word32} (h : s.isMemory a = true) :
    s.byte a = s.cell a := by
  simp [State.byte, h]

theorem cell_congr {s t : State} (h : t.mem = s.mem) (a : Word32) : t.cell a = s.cell a := by
  simp only [State.cell, h]

/-- A write of a byte is taken by RAM and by nothing else. -/
theorem cell_setByte_same (s : State) (a : Word32) (v : Byte) (h : Memory.wf s.mem = true) :
    (s.setByte a v).cell a = if s.area a = .ram then v else s.cell a := by
  simp only [State.cell, State.setByte]
  split
  · exact Memory.read_write_same _ _ _ h
  · rfl

theorem cell_setByte_other (s : State) (a b : Word32) (v : Byte) (h : cellOf b ≠ cellOf a) :
    (s.setByte a v).cell b = s.cell b := by
  simp only [State.cell, State.setByte]
  split
  · exact Memory.read_write_other _ _ _ _ h
  · rfl

/-- After stores in sequence each byte of memory is the old one, or that of one of the stores
to its address, which RAM has taken. -/
theorem replay_cell (l : List (Word32 × Byte)) (s : State) (a : Word32)
    (h : Memory.wf s.mem = true) :
    (s.replay l).cell a = s.cell a ∨
      s.area a = .ram ∧ ∃ c ∈ l, cellOf c.1 = cellOf a ∧ (s.replay l).cell a = c.2 := by
  induction l generalizing s with
  | nil => exact .inl rfl
  | cons c l ih =>
    have hp : (s.setByte c.1 c.2).area a = s.area a := area_congr rfl a
    rcases ih (s.setByte c.1 c.2) (setByte_wf s c.1 c.2 h) with hc | ⟨hr, d, hd, hcd⟩
    · by_cases hca : cellOf c.1 = cellOf a
      · have hsame : (s.setByte c.1 c.2).cell a = (s.setByte c.1 c.2).cell c.1 := by
          simp only [State.cell, hca]
        have har : s.area a = s.area c.1 := by simp only [State.area, hca]
        by_cases hram : s.area c.1 = .ram
        · refine .inr ⟨har.trans hram, c, by simp, hca, ?_⟩
          rw [State.replay, List.foldl_cons, ← State.replay, hc, hsame,
            cell_setByte_same s c.1 c.2 h, if_pos hram]
        · refine .inl ?_
          rw [State.replay, List.foldl_cons, ← State.replay, hc, hsame,
            cell_setByte_same s c.1 c.2 h, if_neg hram]
          simp only [State.cell, hca]
      · exact .inl (hc.trans (cell_setByte_other s c.1 a c.2 (Ne.symm hca)))
    · exact .inr ⟨hp ▸ hr, d, by simp [hd], hcd⟩

end Sys2Proof.Machine
end

