-- ==== Sys2Proof/Laws/Registers.lean ====
section
/-!
SUPPORT. Registers and their parts: reading after writing, and which bits a write of a part
changes.
-/

namespace Sys2Proof.Machine

/-! ## Banks and register files of four -/

theorem Four.get_set_same {α : Type} (v : Four α) (i : BitVec 2) (x : α) :
    (v.set i x).get i = x := by
  have hi := i.isLt
  unfold Four.get Four.set
  generalize i.toNat = a at *
  interval_cases a <;> rfl

theorem Four.get_set_other {α : Type} (v : Four α) (i j : BitVec 2) (x : α) (h : j ≠ i) :
    (v.set i x).get j = v.get j := by
  have hn : j.toNat ≠ i.toNat := fun e => h (BitVec.eq_of_toNat_eq e)
  have hi := i.isLt
  have hj := j.isLt
  unfold Four.get Four.set
  generalize hi' : i.toNat = a at *
  generalize hj' : j.toNat = b at *
  interval_cases a <;> interval_cases b <;> first | rfl | exact absurd rfl hn

theorem Bank.get_set_same {w : Nat} (b : Bank w) (k : BankedReg) (x : BitVec w) :
    (b.set k x).get k = x := by
  cases k <;> rfl

theorem Bank.get_set_other {w : Nat} (b : Bank w) (k l : BankedReg) (x : BitVec w)
    (h : l ≠ k) : (b.set k x).get l = b.get l := by
  cases k <;> cases l <;> first | rfl | exact absurd rfl h

/-! ## Whole registers -/

/-- A register of 32 bits: any but those of banks 4 to 7. -/
def PReg.wide : PReg → Prop
  | .bank n _ => n.toNat < 4
  | .fixed _ => True

theorem reg_setReg_same (s : State) (p : PReg) (v : Word32) (h : p.wide) :
    (s.setReg p v).reg p = v := by
  cases p with
  | bank n k =>
    have hn : n.toNat < 4 := h
    simp [State.setReg, State.reg, hn, Four.get_set_same, Bank.get_set_same]
  | fixed j => cases j <;> rfl

/-- A register of banks 4 to 7 keeps the low 16 bits of what is written. -/
theorem reg_setReg_narrow (s : State) (n : BitVec 3) (k : BankedReg) (v : Word32)
    (h : ¬ n.toNat < 4) :
    (s.setReg (.bank n k) v).reg (.bank n k) = (v.setWidth 16).setWidth 32 := by
  simp only [State.setReg, State.reg, if_neg h, Four.get_set_same, Bank.get_set_same]

theorem reg_setReg_other (s : State) (p q : PReg) (v : Word32) (h : q ≠ p) :
    (s.setReg p v).reg q = s.reg q := by
  cases p with
  | fixed j =>
    cases q with
    | bank n k => cases j <;> rfl
    | fixed l => cases j <;> cases l <;> first | rfl | exact absurd rfl h
  | bank n k =>
    cases q with
    | fixed l =>
      simp only [State.setReg]
      split <;> cases l <;> rfl
    | bank m l =>
      simp only [State.setReg, State.reg]
      by_cases hn : n.toNat < 4 <;> by_cases hm : m.toNat < 4 <;> simp only [hn, hm, if_true, if_false]
      · by_cases hi : (m.setWidth 2 : BitVec 2) = n.setWidth 2
        · have hmn : m = n := by
            apply BitVec.eq_of_toNat_eq
            have := congrArg BitVec.toNat hi
            simp only [BitVec.toNat_setWidth] at this
            omega
          subst hmn
          have hl : l ≠ k := fun e => h (by rw [e])
          rw [Four.get_set_same, Bank.get_set_other _ _ _ _ hl]
        · rw [Four.get_set_other _ _ _ _ hi]
      · by_cases hi : (m.setWidth 2 : BitVec 2) = n.setWidth 2
        · have hmn : m = n := by
            apply BitVec.eq_of_toNat_eq
            have := congrArg BitVec.toNat hi
            simp only [BitVec.toNat_setWidth] at this
            omega
          subst hmn
          have hl : l ≠ k := fun e => h (by rw [e])
          rw [Four.get_set_same, Bank.get_set_other _ _ _ _ hl]
        · rw [Four.get_set_other _ _ _ _ hi]

/-! ## Parts of registers -/

/-- Bit by bit: the field is `v`, the rest is `old`. -/
theorem getLsbD_insertBits {w : Nat} (old : Word32) (lsb : Nat) (v : BitVec w) (i : Nat)
    (hi : i < 32) :
    (insertBits old lsb v).getLsbD i =
      if lsb ≤ i ∧ i < lsb + w then v.getLsbD (i - lsb) else old.getLsbD i := by
  simp only [insertBits, BitVec.getLsbD_or, BitVec.getLsbD_and, BitVec.getLsbD_not,
    BitVec.getLsbD_shiftLeft, BitVec.getLsbD_setWidth, BitVec.getLsbD_allOnes]
  by_cases h1 : i < lsb
  · have h2 : ¬ (lsb ≤ i ∧ i < lsb + w) := by omega
    simp [hi, h1, h2]
  · have h3 : i - lsb < 32 := by omega
    by_cases h2 : i - lsb < w
    · have h4 : lsb ≤ i ∧ i < lsb + w := by omega
      rw [if_pos h4]
      simp [hi, h1, h2, h3]
    · have h4 : ¬ (lsb ≤ i ∧ i < lsb + w) := by omega
      have h5 : v.getLsbD (i - lsb) = false := BitVec.getLsbD_of_ge _ _ (by omega)
      rw [if_neg h4, h5]
      simp [hi, h1, h2]

/-- A part that its register has: within 32 bits, or 16 for banks 4 to 7. -/
def Slot.fits (d : Slot) (sz : Size) : Prop :=
  d.off.toNat + sz.bytes ≤ 4 ∧ (d.reg.wide ∨ d.off.toNat + sz.bytes ≤ 2)

theorem curBank_lt (s : State) (h : s.max = true) : s.curBank.toNat < 4 := by
  have := s.rfp.isLt
  simp only [State.curBank, rfpIn, h, if_true, BitVec.toNat_and]
  exact Nat.lt_of_le_of_lt Nat.and_le_right (by decide)

theorem prevBank_lt (s : State) (h : s.max = true) : s.prevBank.toNat < 4 := by
  simp only [State.prevBank, rfpIn, h, if_true, BitVec.toNat_and]
  exact Nat.lt_of_le_of_lt Nat.and_le_right (by decide)

end Sys2Proof.Machine
end

