-- ==== Sys2Proof/Laws/Operands.lean ====
section
/-!
SUPPORT. Everything an operand form can answer: one lemma per form.
-/

namespace Sys2Proof.Machine

/-! ## Registers -/

/-- A part that `resolve` answers: its place, and that it has room. -/
theorem resolve_eq_next {s : State} {sz : Size} {x : RegDesig} {d : Slot}
    (h : s.resolve sz x = .next d) :
    d = ⟨s.place x.base, x.off⟩ ∧
      (x.off.toNat + sz.bytes ≤ 2 ∨
        (s.max = true ∨ ∃ j, x.base = .fixed j) ∧ x.off.toNat + sz.bytes ≤ 4) := by
  unfold State.resolve at h
  split at h
  · cases h
    exact ⟨rfl, .inl ‹_›⟩
  · split at h
    · rename_i j hj
      split at h
      · cases h
        exact ⟨by rw [hj]; rfl, .inr ⟨.inr ⟨j, hj⟩, ‹_›⟩⟩
      · cases h
    · split at h
      · cases h
      · rename_i hmax
        split at h
        · cases h
          exact ⟨rfl, .inr ⟨.inl (by simpa using hmax), ‹_›⟩⟩
        · cases h

/-- The bank numbers behind a register code exist in the mode. -/
def desigInMode (x : RegDesig) (max : Bool) : Prop :=
  max = true → ∀ n k, x.base = .abs n k → n.toNat < 4

theorem shortDesig_inMode (sz : Size) (c : BitVec 3) (max : Bool) :
    desigInMode (shortDesig sz c) max := by
  intro _ n k h
  unfold shortDesig at h
  split at h <;> simp at h

theorem maxModeRegMap_inMode {code : BitVec 8} {x : RegDesig} (h : maxModeRegMap code = some x)
    (max : Bool) : desigInMode x max := by
  intro _ n k hx
  unfold maxModeRegMap at h
  simp only at h
  split at h <;> first | (cases h; simp at hx; try (obtain ⟨rfl, -⟩ := hx; decide)) | cases h

theorem regMap_inMode {s : State} {code : BitVec 8} {x : RegDesig}
    (h : s.regMap code = some x) : desigInMode x s.max := by
  unfold State.regMap at h
  split at h
  · exact maxModeRegMap_inMode h _
  · rename_i hmax
    intro hm
    exact absurd hm hmax

/-- A resolved part has room in its register. -/
theorem resolve_fits {s : State} {sz : Size} {x : RegDesig} {d : Slot}
    (hx : desigInMode x s.max) (h : s.resolve sz x = .next d) : d.fits sz := by
  obtain ⟨rfl, h2 | ⟨hm, h4⟩⟩ := resolve_eq_next h
  · exact ⟨by simp only; omega, .inr h2⟩
  · refine ⟨h4, .inl ?_⟩
    rcases hm with hm | ⟨j, hj⟩
    · cases hb : x.base with
      | cur k => exact curBank_lt s hm
      | prev k => exact prevBank_lt s hm
      | abs n k => exact hx hm n k hb
      | fixed j => trivial
    · simp only [hj]
      trivial

theorem shortSlot_fits {s : State} {sz : Size} {c : BitVec 3} {d : Slot}
    (h : s.shortSlot sz c = .next d) : d.fits sz :=
  resolve_fits (shortDesig_inMode _ _ _) h

/-- A register by its 8-bit code is what the mode's map names. -/
theorem codeSlot_eq_next {s : State} {sz : Size} {code : BitVec 8} {d : Slot}
    (h : s.codeSlot sz code = .next d) :
    ∃ x, s.regMap code = some x ∧ s.resolve sz x = .next d := by
  unfold State.codeSlot at h
  split at h
  · exact ⟨_, ‹_›, h⟩
  · cases h

theorem codeSlot_fits {s : State} {sz : Size} {code : BitVec 8} {d : Slot}
    (h : s.codeSlot sz code = .next d) : d.fits sz := by
  obtain ⟨x, hx, hr⟩ := codeSlot_eq_next h
  exact resolve_fits (regMap_inMode hx) hr

theorem regSlot_fits {s : State} {sz : Size} {r : RegOp} {d : Slot}
    (h : s.regSlot sz r = .next d) : d.fits sz := by
  cases r with
  | short c => exact shortSlot_fits h
  | ext code => exact codeSlot_fits h

theorem shortDouble_fits {s : State} {sz : Size} {c : BitVec 3} {d : Slot}
    (h : s.shortDouble sz c = .next d) : d.fits sz.double :=
  resolve_fits (shortDesig_inMode _ _ _) h

theorem regDouble_fits {s : State} {sz : Size} {r : RegOp} {d : Slot}
    (h : s.regDouble sz r = .next d) : d.fits sz.double := by
  cases r with
  | short c => exact shortDouble_fits h
  | ext code => exact codeSlot_fits h

/-- A part that has room for the double width has room for the single one. -/
theorem Slot.fits_of_double {d : Slot} {sz : Size} (h : d.fits sz.double) : d.fits sz := by
  have hb : sz.bytes ≤ sz.double.bytes := by cases sz <;> decide
  exact ⟨by have := h.1; omega, h.2.imp id fun h2 => by omega⟩

/-! ## Address registers -/

/-- A register that supplies an address: 32 bits of a wide one, or 16 in minimum mode. -/
def AddrReg.fits (r : AddrReg) : Prop := r.narrow = true ∨ r.reg.wide

theorem addrRegAt_fits (s : State) (x : RegDesig) (hx : desigInMode x s.max) :
    (s.addrRegAt x.base).fits := by
  cases hm : s.max with
  | false =>
    cases hb : x.base with
    | fixed j => exact .inr trivial
    | cur k => exact .inl (by simp [State.addrRegAt, hm])
    | prev k => exact .inl (by simp [State.addrRegAt, hm])
    | abs n k => exact .inl (by simp [State.addrRegAt, hm])
  | true =>
    refine .inr ?_
    cases hb : x.base with
    | fixed j => trivial
    | cur k => exact curBank_lt s hm
    | prev k => exact prevBank_lt s hm
    | abs n k => exact hx hm n k hb

theorem shortAddrReg_fits (s : State) (c : BitVec 3) : (s.shortAddrReg c).fits :=
  addrRegAt_fits s _ (shortDesig_inMode _ _ _)

theorem codeAddrReg_eq_next {s : State} {code : BitVec 8} {r : AddrReg}
    (h : s.codeAddrReg code = .next r) :
    ∃ x, s.regMap code = some x ∧ x.off = 0 ∧ r = s.addrRegAt x.base := by
  unfold State.codeAddrReg at h
  split at h
  · split at h
    · cases h
      exact ⟨_, ‹_›, ‹_›, rfl⟩
    · cases h
  · cases h

theorem codeAddrReg_fits {s : State} {code : BitVec 8} {r : AddrReg}
    (h : s.codeAddrReg code = .next r) : r.fits := by
  obtain ⟨x, hx, -, rfl⟩ := codeAddrReg_eq_next h
  exact addrRegAt_fits s x (regMap_inMode hx)

/-! ## Effective addresses -/

/-- The register that an effective address steps, and the address beside it. -/
theorem eff_eq_next {s : State} {m : MemOp} {e : Eff} (h : s.eff m = .next e) :
    e.stepping = .none ∨
      (∃ r st, r.fits ∧ e.stepping = .pre r ∧
        e.addr = r.trunc (s.addrValue r - stepBytes st)) ∨
      (∃ r st, r.fits ∧ e.stepping = .post r (stepBytes st) ∧ e.addr = s.addrValue r) := by
  cases m with
  | ind R => cases h; exact .inl rfl
  | disp8 R d => cases h; exact .inl rfl
  | abs8 a => cases h; exact .inl rfl
  | abs16 a => cases h; exact .inl rfl
  | abs24 a => cases h; exact .inl rfl
  | indExt r32 =>
    obtain ⟨r, -, h⟩ := andThen_eq_next h
    cases h; exact .inl rfl
  | disp16 r32 d =>
    obtain ⟨r, -, h⟩ := andThen_eq_next h
    cases h; exact .inl rfl
  | index8 base idx =>
    obtain ⟨r, -, h⟩ := andThen_eq_next h
    obtain ⟨i, -, h⟩ := andThen_eq_next h
    cases h; exact .inl rfl
  | index16 base idx =>
    obtain ⟨r, -, h⟩ := andThen_eq_next h
    obtain ⟨i, -, h⟩ := andThen_eq_next h
    cases h; exact .inl rfl
  | preDec r32 st =>
    obtain ⟨r, hr, h⟩ := andThen_eq_next h
    cases h
    exact .inr (.inl ⟨r, st, codeAddrReg_fits hr, rfl, rfl⟩)
  | postInc r32 st =>
    obtain ⟨r, hr, h⟩ := andThen_eq_next h
    cases h
    exact .inr (.inr ⟨r, st, codeAddrReg_fits hr, rfl, rfl⟩)

/-- An instruction with a memory operand goes on with its effective address. -/
theorem withMem_eq_next {α : Type} {s : State} {m : MemOp} {k : Eff → State → Out α} {a : α}
    (h : s.withMem m k = .next a) : ∃ e, s.eff m = .next e ∧ k e (s.preStep e) = .next a :=
  andThen_eq_next h

theorem withMem_of_eff {α : Type} {s : State} {m : MemOp} {e : Eff} (k : Eff → State → Out α)
    (h : s.eff m = .next e) : s.withMem m k = k e (s.preStep e) := by
  simp [State.withMem, h]

/-- LDA, JP and CALL go on with the effective address, where they are not refused. -/
theorem addressEff_eq_next {s : State} {m : MemOp} {e : Eff} (h : s.addressEff m = .next e) :
    s.eff m = .next e ∧ (e.stepping = .none ∨ s.product.bareStep = .free) := by
  obtain ⟨e', he, h⟩ := andThen_eq_next h
  split at h
  · cases h
  · rename_i hno
    cases h
    refine ⟨he, ?_⟩
    cases hs : e.stepping with
    | none => exact .inl rfl
    | pre r =>
      cases hb : s.product.bareStep with
      | refused => exact (hno r (by simp [Eff.stepped, hs]) hb).elim
      | free => exact .inr rfl
    | post r d =>
      cases hb : s.product.bareStep with
      | refused => exact (hno r (by simp [Eff.stepped, hs]) hb).elim
      | free => exact .inr rfl

theorem addressEff_of_eff {s : State} {m : MemOp} {e : Eff} (h : s.eff m = .next e)
    (hs : e.stepping = .none ∨ s.product.bareStep = .free) : s.addressEff m = .next e := by
  simp only [State.addressEff, h, andThen_next]
  split
  · rename_i r hr hb
    rcases hs with hs | hs
    · simp [Eff.stepped, hs] at hr
    · simp [hs] at hb
  · rfl

/-! ## Control registers -/

theorem crOf_eq_next {s : State} {sz : Size} {code : BitVec 8} {c : CReg}
    (h : s.crOf sz code = .next c) :
    s.product.crMap.codes.lookup code = some c ∧ s.crWidth c = sz := by
  unfold State.crOf at h
  split at h
  · split at h
    · cases h
      exact ⟨‹_›, ‹_›⟩
    · cases h
  · cases h

/-- What is written is cut once. -/
@[simp] theorem crFit_crFit (s : State) (c : CReg) (v : Word32) :
    s.crFit c (s.crFit c v) = s.crFit c v := by
  unfold State.crFit
  apply BitVec.eq_of_toNat_eq
  have h := Nat.pow_le_pow_right (n := 2) (by decide) (show (s.crWidth c).bits ≤ 32 by
    cases s.crWidth c <;> decide)
  have := Nat.mod_lt v.toNat (show 2 ^ (s.crWidth c).bits > 0 from Nat.two_pow_pos _)
  simp only [BitVec.toNat_setWidth]
  rw [Nat.mod_eq_of_lt (Nat.lt_of_lt_of_le this h), Nat.mod_mod,
    Nat.mod_eq_of_lt (Nat.lt_of_lt_of_le this h)]

/-- The widths of the control registers are the product's. -/
theorem crFit_congr {s t : State} (h : t.product = s.product) (c : CReg) (v : Word32) :
    t.crFit c v = s.crFit c v := by
  have hw : t.crWidth c = s.crWidth c := by cases c <;> simp only [State.crWidth, h]
  unfold State.crFit
  rw [hw]

/-- A written control register holds the value, cut to its width. -/
theorem creg_setCreg_same (s : State) (c : CReg) (v : Word32) :
    (s.setCreg c v).creg c = s.crFit c v := by
  cases c <;> first | rfl | exact Four.get_set_same _ _ _

theorem creg_setCreg_other (s : State) (c d : CReg) (v : Word32) (h : d ≠ c) :
    (s.setCreg c v).creg d = s.creg d := by
  cases c <;> cases d <;>
    first
      | rfl
      | exact Four.get_set_other _ _ _ _ fun e => h (by rw [e])
      | exact absurd rfl h

/-! ## Modes, the status register and the return from an exception -/

theorem setMax_eq_next {s t : State} {b : Bool} (h : s.setMax b = .next t) :
    t = s.changeMode b ∧ (b = true ∨ s.product.minModeAvailable = true) := by
  unfold State.setMax at h
  split at h
  · cases h
    exact ⟨rfl, by simpa using ‹(b || s.product.minModeAvailable) = true›⟩
  · cases h

theorem setSr_eq_next {s t : State} {v : BitVec 16} (h : s.setSr v = .next t) :
    (v.getLsbD 11 = true ∨ s.product.minModeAvailable = true) ∧
      t = { s.changeMode (v.getLsbD 11) with
        iff := v.extractLsb' 12 3
        rfp := rfpIn (v.getLsbD 11) (v.extractLsb' 8 3)
        f := Flags.ofByte (v.setWidth 8) } := by
  obtain ⟨u, hu, h⟩ := andThen_eq_next h
  obtain ⟨rfl, hav⟩ := setMax_eq_next hu
  cases h
  exact ⟨hav, by simp⟩

theorem returnFromException_eq_next {s t : State} (h : s.returnFromException = .next t) :
    ∃ u, (s.popped .W).popPc.setSr (s.top .W) = .next u ∧
      t = { u with intnest := u.crFit .intnest (u.intnest - 1) } := by
  obtain ⟨u, hu, h⟩ := andThen_eq_next h
  cases h
  exact ⟨u, hu, rfl⟩

end Sys2Proof.Machine
end

