-- ==== Sys2Proof/Laws/Frame.lean ====
section
/-!
SUPPORT. What each shared operation changes and what it keeps, in the terms of Safety.lean.
-/

namespace Sys2Proof.Machine

variable {regs regs' : PReg → Prop} {bytes bytes' : Word32 → Prop}

/-! ## Keeping in sequence -/

theorem State.Kept.refl (s : State) : s.Kept s regs bytes :=
  ⟨fun _ _ => rfl, fun _ _ => rfl, rfl, rfl, rfl, rfl, rfl, rfl, rfl, rfl, rfl, rfl, rfl, rfl,
    rfl⟩

theorem State.Kept.trans {s t u : State} (h : s.Kept t regs bytes) (k : t.Kept u regs bytes) :
    s.Kept u regs bytes :=
  ⟨fun p hp => (k.registers p hp).trans (h.registers p hp),
    fun a ha => (k.memory a ha).trans (h.memory a ha),
    k.fAlt.trans h.fAlt, k.iff.trans h.iff, k.max.trans h.max, k.rfp.trans h.rfp,
    k.dmas.trans h.dmas, k.dmad.trans h.dmad, k.dmac.trans h.dmac, k.dmam.trans h.dmam,
    k.intnest.trans h.intnest, k.halted.trans h.halted, k.repeating.trans h.repeating,
    k.offers.trans h.offers, k.product.trans h.product⟩

/-- What is kept outside a smaller set is kept outside a larger one. -/
theorem State.Kept.mono {s t : State} (h : s.Kept t regs bytes) (hr : ∀ p, regs p → regs' p)
    (hb : ∀ a, bytes a → bytes' a) : s.Kept t regs' bytes' :=
  { h with
    registers := fun p hp => h.registers p fun q => hp (hr p q)
    memory := fun a ha => h.memory a fun q => ha (hb a q) }

/-- A larger set of registers, and no byte of memory in the smaller one. -/
theorem State.Kept.widen {s t : State} (h : s.Kept t regs nowhere)
    (hr : ∀ p, regs p → regs' p) : s.Kept t regs' bytes :=
  h.mono hr fun _ q => q.elim

/-! ## Registers -/

theorem kept_setReg (s : State) (p : PReg) (v : Word32) :
    s.Kept (s.setReg p v) (fun q => q = p) nowhere where
  registers q hq := reg_setReg_other s p q v hq
  memory a _ := by simp [State.cell]
  fAlt := by simp
  iff := by simp
  max := by simp
  rfp := by simp
  dmas := by simp
  dmad := by simp
  dmac := by simp
  dmam := by simp
  intnest := by simp
  halted := by simp
  repeating := by simp
  offers := by simp
  product := by simp

theorem kept_setSlot (s : State) (sz : Size) (d : Slot) (v : BitVec sz.bits) :
    s.Kept (s.setSlot sz d v) (fun q => q = d.reg) nowhere :=
  kept_setReg _ _ _

theorem kept_setAddrReg (s : State) (r : AddrReg) (v : Word32) :
    s.Kept (s.setAddrReg r v) (fun q => q = r.reg) nowhere := by
  unfold State.setAddrReg
  split <;> exact kept_setReg _ _ _

theorem kept_stepAddrReg (s : State) (r : AddrReg) (d : Word32) :
    s.Kept (s.stepAddrReg r d) (fun q => q = r.reg) nowhere :=
  kept_setAddrReg _ _ _

/-- Registers are kept by an update of the other fields of a state. -/
theorem reg_congr {s t : State} (hb : t.banks = s.banks) (hm : t.minBanks = s.minBanks)
    (hx : t.xix = s.xix) (hy : t.xiy = s.xiy) (hz : t.xiz = s.xiz) (hp : t.xsp = s.xsp)
    (p : PReg) : t.reg p = s.reg p := by
  cases p with
  | bank n k => simp only [State.reg, hb, hm]
  | fixed j => cases j <;> simpa [State.reg]

theorem kept_drawn (s : State) (n : Nat) : s.Kept (s.drawn n) regs bytes where
  registers p _ := drawn_reg s n p
  memory _ _ := rfl
  fAlt := rfl
  iff := rfl
  max := rfl
  rfp := rfl
  dmas := rfl
  dmad := rfl
  dmac := rfl
  dmam := rfl
  intnest := rfl
  halted := rfl
  repeating := rfl
  offers := rfl
  product := rfl

theorem kept_begun (s : State) : s.Kept s.begun regs bytes where
  registers p _ := begun_reg s p
  memory _ _ := rfl
  fAlt := rfl
  iff := rfl
  max := rfl
  rfp := rfl
  dmas := rfl
  dmad := rfl
  dmac := rfl
  dmam := rfl
  intnest := rfl
  halted := rfl
  repeating := rfl
  offers := rfl
  product := rfl

theorem kept_withFlags (s : State) (g : Flags) : s.Kept { s with f := g } regs bytes where
  registers p _ := reg_congr rfl rfl rfl rfl rfl rfl p
  memory _ _ := rfl
  fAlt := rfl
  iff := rfl
  max := rfl
  rfp := rfl
  dmas := rfl
  dmad := rfl
  dmac := rfl
  dmam := rfl
  intnest := rfl
  halted := rfl
  repeating := rfl
  offers := rfl
  product := rfl

theorem kept_jump (s : State) (a : Word32) : s.Kept (s.jump a) regs bytes where
  registers p _ := reg_congr rfl rfl rfl rfl rfl rfl p
  memory _ _ := rfl
  fAlt := rfl
  iff := rfl
  max := rfl
  rfp := rfl
  dmas := rfl
  dmad := rfl
  dmac := rfl
  dmam := rfl
  intnest := rfl
  halted := rfl
  repeating := rfl
  offers := rfl
  product := rfl

/-- A move of XSP. -/
theorem kept_withXsp (s : State) (v : Word32) :
    s.Kept { s with xsp := v } (fun q => q = .fixed .xsp) nowhere :=
  kept_setReg s (.fixed .xsp) v

/-! ## Memory -/

theorem kept_setByte (s : State) (a : Word32) (v : Byte) :
    s.Kept (s.setByte a v) noReg (fun x => cellOf x = cellOf a) where
  registers p _ := setByte_reg s a v p
  memory b hb := cell_setByte_other s a b v hb
  fAlt := by simp
  iff := by simp
  max := by simp
  rfp := by simp
  dmas := by simp
  dmad := by simp
  dmac := by simp
  dmam := by simp
  intnest := by simp
  halted := by simp
  repeating := by simp
  offers := by simp
  product := by simp

theorem kept_setByte_at (s : State) (sz : Size) (a : Word32) (k : Nat) (v : Byte)
    (hk : k < sz.bytes) :
    s.Kept (s.setByte (a + BitVec.ofNat 32 k) v) noReg (touches sz a) :=
  (kept_setByte s _ v).mono (fun _ h => h) fun _ h => ⟨k, hk, h⟩

/-- A store changes the bytes it stores to and nothing else. -/
theorem kept_memWrite (s : State) (sz : Size) (a : Word32) (v : BitVec sz.bits) :
    s.Kept (s.memWrite sz a v) noReg (touches sz a) := by
  have h0 : ∀ (t : State) (b : Byte) (z : Size), 0 < z.bytes →
      t.Kept (t.setByte a b) noReg (touches z a) := by
    intro t b z hz
    simpa using kept_setByte_at t z a 0 b hz
  cases sz with
  | B => exact h0 s v .B (by decide)
  | W =>
    exact (h0 s _ .W (by decide)).trans (kept_setByte_at _ .W a 1 _ (by decide))
  | L =>
    exact (((h0 s _ .L (by decide)).trans (kept_setByte_at _ .L a 1 _ (by decide))).trans
      (kept_setByte_at _ .L a 2 _ (by decide))).trans (kept_setByte_at _ .L a 3 _ (by decide))

theorem cellOf_add_ne (a : Word32) (j k : Nat) (hj : j < 4) (hk : k < 4) (h : j ≠ k) :
    cellOf (a + BitVec.ofNat 32 j) ≠ cellOf (a + BitVec.ofNat 32 k) := by
  have ha := a.isLt
  simp only [cellOf, BitVec.toNat_setWidth, BitVec.toNat_add, BitVec.toNat_ofNat]
  omega

/-- A write stores its value. -/
theorem stored_memWrite (s : State) (sz : Size) (a : Word32) (v : BitVec sz.bits)
    (h : Memory.wf s.mem = true) : s.Stored (s.memWrite sz a v) sz a v := by
  have n01 : cellOf a ≠ cellOf (a + 1) := by
    simpa using cellOf_add_ne a 0 1 (by decide) (by decide) (by decide)
  have n02 : cellOf a ≠ cellOf (a + 2) := by
    simpa using cellOf_add_ne a 0 2 (by decide) (by decide) (by decide)
  have n03 : cellOf a ≠ cellOf (a + 3) := by
    simpa using cellOf_add_ne a 0 3 (by decide) (by decide) (by decide)
  have n12 : cellOf (a + 1) ≠ cellOf (a + 2) :=
    cellOf_add_ne a 1 2 (by decide) (by decide) (by decide)
  have n13 : cellOf (a + 1) ≠ cellOf (a + 3) :=
    cellOf_add_ne a 1 3 (by decide) (by decide) (by decide)
  have n23 : cellOf (a + 2) ≠ cellOf (a + 3) :=
    cellOf_add_ne a 2 3 (by decide) (by decide) (by decide)
  have hs : ∀ (t : State) (x y : Word32) (b : Byte), (t.setByte x b).area y = t.area y :=
    fun t x y b => area_congr (setByte_product t x b) y
  have e0 : a + BitVec.ofNat 32 0 = a := BitVec.add_zero a
  have e1 : a + BitVec.ofNat 32 1 = a + 1 := rfl
  have e2 : a + BitVec.ofNat 32 2 = a + 2 := rfl
  have e3 : a + BitVec.ofNat 32 3 = a + 3 := rfl
  intro k hk
  cases sz with
  | B =>
    obtain rfl : k = 0 := by simpa [Size.bytes] using hk
    simp [State.memWrite, cell_setByte_same _ _ _ h]
  | W =>
    have w1 := setByte_wf s a (v.extractLsb' 0 8) h
    have hk : k < 2 := hk
    simp only [State.memWrite]
    interval_cases k
    · rw [e0, cell_setByte_other _ _ _ _ n01, cell_setByte_same _ _ _ h]
    · rw [e1, cell_setByte_same _ _ _ w1, hs, cell_setByte_other _ _ _ _ n01.symm]
  | L =>
    have w1 := setByte_wf s a (v.extractLsb' 0 8) h
    have w2 := setByte_wf _ (a + 1) (v.extractLsb' 8 8) w1
    have w3 := setByte_wf _ (a + 2) (v.extractLsb' 16 8) w2
    have hk : k < 4 := hk
    simp only [State.memWrite]
    interval_cases k
    · rw [e0, cell_setByte_other _ _ _ _ n03, cell_setByte_other _ _ _ _ n02,
        cell_setByte_other _ _ _ _ n01, cell_setByte_same _ _ _ h]
    · rw [e1, cell_setByte_other _ _ _ _ n13, cell_setByte_other _ _ _ _ n12,
        cell_setByte_same _ _ _ w1, hs, cell_setByte_other _ _ _ _ n01.symm]
    · rw [e2, cell_setByte_other _ _ _ _ n23, cell_setByte_same _ _ _ w2, hs, hs,
        cell_setByte_other _ _ _ _ n12.symm, cell_setByte_other _ _ _ _ n02.symm]
    · rw [e3, cell_setByte_same _ _ _ w3, hs, hs, hs, cell_setByte_other _ _ _ _ n23.symm,
        cell_setByte_other _ _ _ _ n13.symm, cell_setByte_other _ _ _ _ n03.symm]

/-- What is stored in RAM is what a read gives. -/
theorem State.Stored.read {s t : State} {sz : Size} {a : Word32} {v : BitVec sz.bits}
    (h : s.Stored t sz a v) (hp : t.product = s.product)
    (hr : ∀ k, k < sz.bytes → s.area (a + BitVec.ofNat 32 k) = .ram) :
    t.memRead sz a = v := by
  have hb : ∀ k, k < sz.bytes → t.byte (a + BitVec.ofNat 32 k) = v.extractLsb' (8 * k) 8 := by
    intro k hk
    rw [byte_of_isMemory ((isMemory_congr hp _).trans (isMemory_of_ram (hr k hk))), h k hk,
      if_pos (hr k hk)]
  have h0 : 0 < sz.bytes → t.byte a = v.extractLsb' 0 8 := fun h0 => by simpa using hb 0 h0
  cases sz with
  | B =>
    show t.byte a = v
    rw [h0 (by decide)]
    exact BitVec.extractLsb'_eq_self
  | W =>
    have h1 : t.byte (a + 1) = _ := hb 1 (by decide)
    simp only [State.memRead]
    rw [h0 (by decide), h1]
    apply BitVec.eq_of_getLsbD_eq
    intro i hi
    simp only [BitVec.getLsbD_append, BitVec.getLsbD_extractLsb']
    by_cases h8 : i < 8
    · simp [h8]
    · have : i - 8 < 8 := by
        have : i < 16 := hi
        omega
      simp [h8, this, show 8 + (i - 8) = i by omega]
  | L =>
    have h1 : t.byte (a + 1) = _ := hb 1 (by decide)
    have h2 : t.byte (a + 2) = _ := hb 2 (by decide)
    have h3 : t.byte (a + 3) = _ := hb 3 (by decide)
    simp only [State.memRead]
    rw [h0 (by decide), h1, h2, h3]
    apply BitVec.eq_of_getLsbD_eq
    intro i hi
    have hi' : i < 32 := hi
    simp only [BitVec.getLsbD_append, BitVec.getLsbD_extractLsb']
    by_cases h8 : i < 8
    · simp [h8]
    · by_cases h16 : i - 8 < 8
      · simp [h8, h16, show 8 + (i - 8) = i by omega]
      · by_cases h24 : i - 8 - 8 < 8
        · simp [h8, h16, h24, show 16 + (i - 8 - 8) = i by omega]
        · simp [h8, h16, h24, show 24 + (i - 8 - 8 - 8) = i by omega,
            show i - 8 - 8 - 8 < 8 by omega]

/-- Reads do not depend on what is kept elsewhere in the state. -/
theorem memRead_congr {s t : State} (h : t.mem = s.mem) (hd : t.draws = s.draws)
    (hp : t.product = s.product) (sz : Size) (a : Word32) :
    t.memRead sz a = s.memRead sz a := by
  have hb : ∀ x, t.byte x = s.byte x := by
    intro x
    simp only [State.byte, State.cell, isMemory_congr hp, h, hd]
  cases sz <;> simp only [State.memRead, hb]

/-- A store goes on over a step that keeps memory, from a state with the same memory. -/
theorem State.Stored.of_cells {s s' t u : State} {sz : Size} {a : Word32} {v : BitVec sz.bits}
    (h : s.Stored t sz a v) (hs : ∀ x, s'.cell x = s.cell x) (hp : s'.product = s.product)
    (hu : ∀ x, u.cell x = t.cell x) : s'.Stored u sz a v := by
  intro k hk
  rw [hu, hs, area_congr hp]
  exact h k hk

/-! ## Values of registers after a write -/

theorem bits_eq (sz : Size) : sz.bits = 8 * sz.bytes := by cases sz <;> rfl

/-- A write to a part that fits gives the part its value and keeps the other bits. -/
theorem wrote_setSlot (s : State) (sz : Size) (d : Slot) (v : BitVec sz.bits)
    (h : d.fits sz) : s.Wrote (s.setSlot sz d v) sz d v := by
  have hb := bits_eq sz
  have key : ∀ i, i < 32 → (d.reg.wide ∨ i < 16) →
      ((s.setSlot sz d v).reg d.reg).getLsbD i =
        if d.lsb ≤ i ∧ i < d.lsb + sz.bits then v.getLsbD (i - d.lsb)
        else (s.reg d.reg).getLsbD i := by
    intro i hi hw
    have hins := getLsbD_insertBits (s.reg d.reg) d.lsb v i hi
    by_cases hwide : d.reg.wide
    · rw [State.setSlot, reg_setReg_same _ _ _ hwide, hins]
    · have h16 : i < 16 := hw.resolve_left hwide
      cases hr : d.reg with
      | fixed j => exact absurd (by rw [hr]; trivial) hwide
      | bank n k =>
        have hn : ¬ n.toNat < 4 := by
          intro hlt
          exact hwide (by rw [hr]; exact hlt)
        rw [State.setSlot, hr, reg_setReg_narrow _ _ _ _ hn]
        rw [hr] at hins
        simp only [BitVec.getLsbD_setWidth, hi, h16, decide_true, Bool.true_and]
        exact hins
  have hfit4 := h.1
  have hl : d.lsb = 8 * d.off.toNat := rfl
  constructor
  · apply BitVec.eq_of_getLsbD_eq
    intro i hi
    simp only [State.slot, BitVec.getLsbD_extractLsb', hi, decide_true, Bool.true_and]
    rw [key (d.lsb + i) (by omega) (h.2.imp id fun h2 => by omega), if_pos (by omega)]
    congr 1
    omega
  · intro i hi
    by_cases h32 : i < 32
    · by_cases hwide : d.reg.wide ∨ i < 16
      · rw [key i h32 hwide, if_neg (by omega)]
      · -- bits 31:16 of a 16-bit register read 0
        cases hr : d.reg with
        | fixed j => exact absurd (.inl (by rw [hr]; trivial)) hwide
        | bank n k =>
          have hn : ¬ n.toNat < 4 := by
            intro hlt
            exact hwide (.inl (by rw [hr]; exact hlt))
          have h16 : ¬ i < 16 := fun q => hwide (.inr q)
          simp [State.reg, hn, h32,
            BitVec.getLsbD_of_ge _ _ (Nat.le_of_not_lt h16)]
    · rw [BitVec.getLsbD_of_ge _ _ (by omega), BitVec.getLsbD_of_ge _ _ (by omega)]

/-- What a part reads is its register's. -/
theorem slot_congr {s t : State} {d : Slot} (h : t.reg d.reg = s.reg d.reg) (sz : Size) :
    t.slot sz d = s.slot sz d := by
  simp [State.slot, h]

/-- `Wrote` goes on over a step that keeps the register. -/
theorem State.Wrote.of_reg {s t u : State} {sz : Size} {d : Slot} {v : BitVec sz.bits}
    (h : s.Wrote t sz d v) (hr : u.reg d.reg = t.reg d.reg) : s.Wrote u sz d v :=
  ⟨(slot_congr hr sz).trans h.value, fun i hi => by rw [hr]; exact h.rest i hi⟩

/-! ## Address registers -/

@[simp] theorem AddrReg.trunc_trunc (r : AddrReg) (v : Word32) :
    r.trunc (r.trunc v) = r.trunc v := by
  unfold AddrReg.trunc
  split
  · apply BitVec.eq_of_toNat_eq
    simp only [BitVec.toNat_setWidth]
    omega
  · rfl

/-- The low half of an address register, which is what a narrow one is. -/
def AddrReg.half (r : AddrReg) : Slot := ⟨r.reg, 0⟩

theorem AddrReg.half_fits (r : AddrReg) : r.half.fits .W :=
  ⟨show (0 : BitVec 2).toNat + Size.W.bytes ≤ 4 by decide,
    .inr (show (0 : BitVec 2).toNat + Size.W.bytes ≤ 2 by decide)⟩

theorem setWidth_of_slot (s : State) (r : AddrReg) :
    (s.reg r.reg).setWidth 16 = s.slot .W r.half := by
  apply BitVec.eq_of_getLsbD_eq
  intro i hi
  simp [State.slot, AddrReg.half, Slot.lsb, hi]

/-- A written address register holds the value, cut to its width. -/
theorem addrValue_setAddrReg (s : State) (r : AddrReg) (v : Word32) (h : r.fits) :
    (s.setAddrReg r v).addrValue r = r.trunc v := by
  unfold State.addrValue State.setAddrReg AddrReg.trunc
  by_cases hn : r.narrow = true
  · simp only [hn, if_true]
    have hw := (wrote_setSlot s .W r.half (v.setWidth 16) r.half_fits).value
    have : ((s.setReg r.reg (insertBits (s.reg r.reg) 0 (v.setWidth 16 : BitVec 16))).reg
        r.reg).setWidth 16 = (v.setWidth 16 : BitVec 16) := by
      exact (setWidth_of_slot (s.setSlot .W r.half (v.setWidth 16)) r).trans hw
    rw [this]
  · simp only [hn]
    rcases h with h | h
    · exact absurd h hn
    · simp [reg_setReg_same _ _ _ h]

/-- The upper half of a narrow address register is kept. -/
theorem setAddrReg_upper (s : State) (r : AddrReg) (v : Word32) (hn : r.narrow = true) (i : Nat)
    (hi : 16 ≤ i) :
    ((s.setAddrReg r v).reg r.reg).getLsbD i = (s.reg r.reg).getLsbD i := by
  unfold State.setAddrReg
  rw [if_pos hn]
  exact (wrote_setSlot s .W r.half (v.setWidth 16) r.half_fits).rest i (.inr hi)

theorem addrValue_congr {s t : State} {r : AddrReg} (h : t.reg r.reg = s.reg r.reg) :
    t.addrValue r = s.addrValue r := by
  simp [State.addrValue, h]

/-! ## Memory operands -/

theorem kept_preStep (s : State) (e : Eff) : s.Kept (s.preStep e) e.stepsReg nowhere := by
  unfold State.preStep
  split
  · rename_i r hr
    exact (kept_setAddrReg s r _).mono (fun p hp => ⟨r, by simp [Eff.stepped, hr], hp.symm⟩)
      fun _ h => h
  · exact State.Kept.refl s

theorem kept_postStep (s : State) (e : Eff) : s.Kept (s.postStep e) e.stepsReg nowhere := by
  unfold State.postStep
  split
  · rename_i r d hr
    exact (kept_stepAddrReg s r d).mono (fun p hp => ⟨r, by simp [Eff.stepped, hr], hp.symm⟩)
      fun _ h => h
  · exact State.Kept.refl s

/-- The stepped register after an access: `u` is what the work between the pre-decrement
and the post-increment leaves, and it keeps that register. -/
theorem steppedTo_of {s u : State} {m : MemOp} {e : Eff} (he : s.eff m = .next e)
    (hu : ∀ p, e.stepsReg p → u.reg p = (s.preStep e).reg p) : s.SteppedTo (u.postStep e) e := by
  rcases eff_eq_next he with h | ⟨r, st, hf, h, ha⟩ | ⟨r, st, hf, h, ha⟩
  · simp [State.SteppedTo, h]
  · have hreg : (u.postStep e).reg r.reg = (s.setAddrReg r e.addr).reg r.reg := by
      have := hu r.reg ⟨r, by simp [Eff.stepped, h], rfl⟩
      simpa [State.postStep, State.preStep, h] using this
    simp only [State.SteppedTo, h]
    refine ⟨?_, fun hn i hi => ?_⟩
    · rw [addrValue_congr hreg, addrValue_setAddrReg _ _ _ hf, ha]
      simp
    · rw [hreg]
      exact setAddrReg_upper _ _ _ hn _ hi
  · have hreg : u.reg r.reg = s.reg r.reg := by
      have := hu r.reg ⟨r, by simp [Eff.stepped, h], rfl⟩
      simpa [State.preStep, h] using this
    simp only [State.SteppedTo, h, State.postStep, State.stepAddrReg]
    refine ⟨?_, fun hn i hi => ?_⟩
    · rw [addrValue_setAddrReg _ _ _ hf, addrValue_congr hreg]
    · rw [setAddrReg_upper _ _ _ hn _ hi, hreg]

/-- Writing the destination and finishing the memory operand touch those two registers. -/
theorem kept_setSlotAndStep (s : State) (e : Eff) (sz : Size) (d : Slot) (v : BitVec sz.bits) :
    s.Kept (s.setSlotAndStep e sz d v) (fun p => p = d.reg ∨ e.stepsReg p) nowhere := by
  unfold State.setSlotAndStep
  split
  · rename_i r hr
    split
    · exact ((kept_setAddrReg s r _).mono (fun p hp => .inr ⟨r, hr, hp.symm⟩)
        fun _ h => h).trans (kept_drawn _ _)
    · exact ((kept_setSlot s sz d v).mono (fun p hp => .inl hp) fun _ h => h).trans
        ((kept_postStep _ e).mono (fun p hp => .inr hp) fun _ h => h)
  · exact (kept_setSlot s sz d v).mono (fun p hp => .inl hp) fun _ h => h

/-- Where the mode does not step the destination register, it is written and stepped. -/
theorem setSlotAndStep_eq (s : State) (e : Eff) (sz : Size) (d : Slot) (v : BitVec sz.bits)
    (h : ¬ e.stepsReg d.reg) : s.setSlotAndStep e sz d v = (s.setSlot sz d v).postStep e := by
  unfold State.setSlotAndStep
  split
  · rename_i r hr
    rw [if_neg fun hrd => h ⟨r, hr, hrd⟩]
  · rename_i hr
    cases hs : e.stepping with
    | none => simp [State.postStep, hs]
    | pre r => simp [Eff.stepped, hs] at hr
    | post r d => simp [Eff.stepped, hs] at hr

/-! ## Whole instructions -/

/-- Writing a part that fits, whatever happens to F and the draws afterwards. -/
theorem setsReg_of {s u : State} {sz : Size} {d : Slot} {v : BitVec sz.bits} (hf : d.fits sz)
    (hu : (s.setSlot sz d v).Kept u noReg nowhere) (hp : u.pc = s.pc) : s.SetsReg u sz d v :=
  ⟨(wrote_setSlot s sz d v hf).of_reg (hu.registers _ fun h => h),
    (kept_setSlot s sz d v).trans (hu.mono (fun _ h => h.elim) fun _ h => h), hp⟩

theorem setsReg_setSlot {s : State} {sz : Size} {d : Slot} {v : BitVec sz.bits}
    (hf : d.fits sz) : s.SetsReg (s.setSlot sz d v) sz d v :=
  setsReg_of hf (State.Kept.refl _) (by simp)

/-- Storing at an effective address and finishing the memory operand, whatever happens to F
and the draws in between. -/
theorem setsMem_of {s u : State} {m : MemOp} {e : Eff} {sz : Size} {v : BitVec sz.bits}
    (he : s.eff m = .next e) (hwf : Memory.wf s.mem = true)
    (hu : ((s.preStep e).memWrite sz e.addr v).Kept u noReg nowhere) (hp : u.pc = s.pc) :
    s.SetsMem (u.postStep e) sz e v where
  stored := by
    have h1 : Memory.wf (s.preStep e).mem = true := by simpa using hwf
    refine (stored_memWrite (s.preStep e) sz e.addr v h1).of_cells
      (fun x => (cell_congr (by simp) x)) (by simp) fun x => ?_
    rw [cell_congr (show (u.postStep e).mem = u.mem by simp)]
    exact hu.memory x fun h => h
  stepped := steppedTo_of he fun p _ => by
    have := hu.registers p fun h => h
    simpa using this
  kept := by
    refine (((kept_preStep s e).widen fun _ h => h).trans
      (((kept_memWrite _ sz e.addr v).mono (fun _ h => h.elim) fun _ h => h).trans
        (hu.mono (fun _ h => h.elim) fun _ h => h.elim))).trans
      ((kept_postStep u e).widen fun _ h => h)
  pc := by simpa using hp

/-- Reading at an effective address and finishing the memory operand. -/
theorem readsMem_of {s u : State} {m : MemOp} {e : Eff} (he : s.eff m = .next e)
    (hu : (s.preStep e).Kept u noReg nowhere) (hp : u.pc = s.pc) :
    s.ReadsMem (u.postStep e) e where
  stepped := steppedTo_of he fun p _ => hu.registers p fun h => h
  kept := ((kept_preStep s e).trans (hu.mono (fun _ h => h.elim) fun _ h => h)).trans
    (kept_postStep u e)
  pc := by simpa using hp

/-- Writing a register and finishing the memory operand, after `u` has done what the
instruction does to memory, F and the draws. -/
theorem loadsReg_of {s u : State} {m : MemOp} {e : Eff} {sz : Size} {d : Slot}
    {v : BitVec sz.bits} {bytes : Word32 → Prop} (he : s.eff m = .next e) (hf : d.fits sz)
    (hu : (s.preStep e).Kept u noReg bytes) (hp : u.pc = s.pc) :
    s.LoadsReg (u.setSlotAndStep e sz d v) sz e d v bytes where
  wrote hd := by
    rw [setSlotAndStep_eq u e sz d v hd]
    have hw : u.Wrote ((u.setSlot sz d v).postStep e) sz d v :=
      (wrote_setSlot u sz d v hf).of_reg
        ((kept_postStep (u.setSlot sz d v) e).registers _ hd)
    have hreg : u.reg d.reg = s.reg d.reg :=
      (hu.registers _ fun h => h).trans ((kept_preStep s e).registers _ hd)
    refine ⟨⟨hw.value, fun i hi => (hw.rest i hi).trans (by rw [hreg])⟩,
      steppedTo_of he fun p hpe => ?_⟩
    have hne : p ≠ d.reg := fun h => hd (h ▸ hpe)
    exact ((kept_setSlot u sz d v).registers p hne).trans (hu.registers p fun h => h)
  kept := (((kept_preStep s e).widen fun _ h => .inr h).trans
    (hu.mono (fun _ h => h.elim) fun _ h => h)).trans
    ((kept_setSlotAndStep u e sz d v).widen fun _ h => h)
  pc := by simpa using hp

end Sys2Proof.Machine
end

