-- ==== Sys2Proof/Laws/PerInstr.lean ====
section
/-!
SUPPORT. Facts about every instruction as syntax, one lemma per constructor. `Length`: the
encoding of an instruction of the set has 1 to 7 bytes (30_encoding.md R60, R61).
-/

namespace Sys2Proof.Laws

/-- What `Length` says of one instruction. -/
def Length.Statement (i : Instr) : Prop :=
  WellFormed i = true → 1 ≤ (encode i).length ∧ (encode i).length ≤ 7

theorem regPrefix_length (sz : Size) (r : RegOp) :
    1 ≤ (regPrefix sz r).length ∧ (regPrefix sz r).length ≤ 2 := by
  cases r <;> simp [regPrefix]

theorem modeBytes_length (m : MemOp) : (modeBytes m).length ≤ 3 := by
  cases m <;> simp [modeBytes, bytes16, bytes24]

theorem srcPrefix_length (sz : Size) (m : MemOp) :
    1 ≤ (srcPrefix sz m).length ∧ (srcPrefix sz m).length ≤ 4 := by
  have := modeBytes_length m
  simp only [srcPrefix, List.length_cons]
  omega

theorem dstPrefix_length (m : MemOp) :
    1 ≤ (dstPrefix m).length ∧ (dstPrefix m).length ≤ 4 := by
  have := modeBytes_length m
  simp only [dstPrefix, List.length_cons]
  omega

@[simp] theorem bytes16_length (v : BitVec 16) : (bytes16 v).length = 2 := rfl

@[simp] theorem bytes24_length (v : BitVec 24) : (bytes24 v).length = 3 := rfl

@[simp] theorem bytes32_length (v : BitVec 32) : (bytes32 v).length = 4 := rfl

theorem immBytes_length (sz : Size) (v : BitVec sz.bits) : (immBytes sz v).length = sz.bytes := by
  cases sz <;> rfl

theorem bytes_le_four (sz : Size) : sz.bytes ≤ 4 := by cases sz <;> decide

/-- An operation on bytes and words only has an immediate of at most two bytes. -/
theorem bytes_le_two {sz : Size} {rest : List (Option Reject)}
    (h : (firstOf (sizeIn [.B, .W] sz :: rest)).isNone = true) : sz.bytes ≤ 2 := by
  cases sz <;> simp [sizeIn, firstOf, Size.bytes] at h ⊢

/-- A prefix of `n` to `m` bytes, the operation byte and at most `7 - 1 - m` more bytes. -/
theorem length_of_prefix {p : List Byte} {m : Nat} (hp : 1 ≤ p.length ∧ p.length ≤ m)
    (b : Byte) {t : List Byte} (ht : t.length + m ≤ 6) :
    1 ≤ (p ++ [b] ++ t).length ∧ (p ++ [b] ++ t).length ≤ 7 := by
  simp only [List.length_append, List.length_cons, List.length_nil]
  omega

/-- A prefix and the operation byte. -/
theorem length_of_short {p : List Byte} {m : Nat} (hp : 1 ≤ p.length ∧ p.length ≤ m)
    (b : Byte) (hm : m ≤ 6) : 1 ≤ (p ++ [b]).length ∧ (p ++ [b]).length ≤ 7 := by
  simp only [List.length_append, List.length_cons, List.length_nil]
  omega


theorem Length.nop : Length.Statement .nop :=
  fun _ => ⟨Nat.le_of_ble_eq_true rfl, Nat.le_of_ble_eq_true rfl⟩

theorem Length.pushSR : Length.Statement .pushSR :=
  fun _ => ⟨Nat.le_of_ble_eq_true rfl, Nat.le_of_ble_eq_true rfl⟩

theorem Length.popSR : Length.Statement .popSR :=
  fun _ => ⟨Nat.le_of_ble_eq_true rfl, Nat.le_of_ble_eq_true rfl⟩

theorem Length.min : Length.Statement .min :=
  fun _ => ⟨Nat.le_of_ble_eq_true rfl, Nat.le_of_ble_eq_true rfl⟩

theorem Length.halt : Length.Statement .halt :=
  fun _ => ⟨Nat.le_of_ble_eq_true rfl, Nat.le_of_ble_eq_true rfl⟩

theorem Length.di : Length.Statement .di :=
  fun _ => ⟨Nat.le_of_ble_eq_true rfl, Nat.le_of_ble_eq_true rfl⟩

theorem Length.ei (n : BitVec 3) : Length.Statement (.ei n) :=
  fun _ => ⟨Nat.le_of_ble_eq_true rfl, Nat.le_of_ble_eq_true rfl⟩

theorem Length.reti : Length.Statement .reti :=
  fun _ => ⟨Nat.le_of_ble_eq_true rfl, Nat.le_of_ble_eq_true rfl⟩

theorem Length.ldA8I8 (a : BitVec 8) (v : BitVec 8) : Length.Statement (.ldA8I8 a v) :=
  fun _ => ⟨Nat.le_of_ble_eq_true rfl, Nat.le_of_ble_eq_true rfl⟩

theorem Length.pushI8 (v : BitVec 8) : Length.Statement (.pushI8 v) :=
  fun _ => ⟨Nat.le_of_ble_eq_true rfl, Nat.le_of_ble_eq_true rfl⟩

theorem Length.ldwA8I16 (a : BitVec 8) (v : BitVec 16) : Length.Statement (.ldwA8I16 a v) :=
  fun _ => ⟨Nat.le_of_ble_eq_true rfl, Nat.le_of_ble_eq_true rfl⟩

theorem Length.pushwI16 (v : BitVec 16) : Length.Statement (.pushwI16 v) :=
  fun _ => ⟨Nat.le_of_ble_eq_true rfl, Nat.le_of_ble_eq_true rfl⟩

theorem Length.incf : Length.Statement .incf :=
  fun _ => ⟨Nat.le_of_ble_eq_true rfl, Nat.le_of_ble_eq_true rfl⟩

theorem Length.decf : Length.Statement .decf :=
  fun _ => ⟨Nat.le_of_ble_eq_true rfl, Nat.le_of_ble_eq_true rfl⟩

theorem Length.ret : Length.Statement .ret :=
  fun _ => ⟨Nat.le_of_ble_eq_true rfl, Nat.le_of_ble_eq_true rfl⟩

theorem Length.retd (d : BitVec 16) : Length.Statement (.retd d) :=
  fun _ => ⟨Nat.le_of_ble_eq_true rfl, Nat.le_of_ble_eq_true rfl⟩

theorem Length.rcf : Length.Statement .rcf :=
  fun _ => ⟨Nat.le_of_ble_eq_true rfl, Nat.le_of_ble_eq_true rfl⟩

theorem Length.scf : Length.Statement .scf :=
  fun _ => ⟨Nat.le_of_ble_eq_true rfl, Nat.le_of_ble_eq_true rfl⟩

theorem Length.ccf : Length.Statement .ccf :=
  fun _ => ⟨Nat.le_of_ble_eq_true rfl, Nat.le_of_ble_eq_true rfl⟩

theorem Length.zcf : Length.Statement .zcf :=
  fun _ => ⟨Nat.le_of_ble_eq_true rfl, Nat.le_of_ble_eq_true rfl⟩

theorem Length.pushA : Length.Statement .pushA :=
  fun _ => ⟨Nat.le_of_ble_eq_true rfl, Nat.le_of_ble_eq_true rfl⟩

theorem Length.popA : Length.Statement .popA :=
  fun _ => ⟨Nat.le_of_ble_eq_true rfl, Nat.le_of_ble_eq_true rfl⟩

theorem Length.exFF : Length.Statement .exFF :=
  fun _ => ⟨Nat.le_of_ble_eq_true rfl, Nat.le_of_ble_eq_true rfl⟩

theorem Length.ldf (n : BitVec 3) : Length.Statement (.ldf n) :=
  fun _ => ⟨Nat.le_of_ble_eq_true rfl, Nat.le_of_ble_eq_true rfl⟩

theorem Length.pushF : Length.Statement .pushF :=
  fun _ => ⟨Nat.le_of_ble_eq_true rfl, Nat.le_of_ble_eq_true rfl⟩

theorem Length.popF : Length.Statement .popF :=
  fun _ => ⟨Nat.le_of_ble_eq_true rfl, Nat.le_of_ble_eq_true rfl⟩

theorem Length.jp16 (a : BitVec 16) : Length.Statement (.jp16 a) :=
  fun _ => ⟨Nat.le_of_ble_eq_true rfl, Nat.le_of_ble_eq_true rfl⟩

theorem Length.jp24 (a : BitVec 24) : Length.Statement (.jp24 a) :=
  fun _ => ⟨Nat.le_of_ble_eq_true rfl, Nat.le_of_ble_eq_true rfl⟩

theorem Length.call16 (a : BitVec 16) : Length.Statement (.call16 a) :=
  fun _ => ⟨Nat.le_of_ble_eq_true rfl, Nat.le_of_ble_eq_true rfl⟩

theorem Length.call24 (a : BitVec 24) : Length.Statement (.call24 a) :=
  fun _ => ⟨Nat.le_of_ble_eq_true rfl, Nat.le_of_ble_eq_true rfl⟩

theorem Length.calr (d : BitVec 16) : Length.Statement (.calr d) :=
  fun _ => ⟨Nat.le_of_ble_eq_true rfl, Nat.le_of_ble_eq_true rfl⟩

theorem Length.ldRI8 (R : BitVec 3) (v : BitVec 8) : Length.Statement (.ldRI8 R v) :=
  fun _ => ⟨Nat.le_of_ble_eq_true rfl, Nat.le_of_ble_eq_true rfl⟩

theorem Length.pushRW (R : BitVec 3) : Length.Statement (.pushRW R) :=
  fun _ => ⟨Nat.le_of_ble_eq_true rfl, Nat.le_of_ble_eq_true rfl⟩

theorem Length.ldRI16 (R : BitVec 3) (v : BitVec 16) : Length.Statement (.ldRI16 R v) :=
  fun _ => ⟨Nat.le_of_ble_eq_true rfl, Nat.le_of_ble_eq_true rfl⟩

theorem Length.pushRL (R : BitVec 3) : Length.Statement (.pushRL R) :=
  fun _ => ⟨Nat.le_of_ble_eq_true rfl, Nat.le_of_ble_eq_true rfl⟩

theorem Length.ldRI32 (R : BitVec 3) (v : BitVec 32) : Length.Statement (.ldRI32 R v) :=
  fun _ => ⟨Nat.le_of_ble_eq_true rfl, Nat.le_of_ble_eq_true rfl⟩

theorem Length.popRW (R : BitVec 3) : Length.Statement (.popRW R) :=
  fun _ => ⟨Nat.le_of_ble_eq_true rfl, Nat.le_of_ble_eq_true rfl⟩

theorem Length.popRL (R : BitVec 3) : Length.Statement (.popRL R) :=
  fun _ => ⟨Nat.le_of_ble_eq_true rfl, Nat.le_of_ble_eq_true rfl⟩

theorem Length.jr (cc : Cond) (d : BitVec 8) : Length.Statement (.jr cc d) :=
  fun _ => ⟨Nat.le_of_ble_eq_true rfl, Nat.le_of_ble_eq_true rfl⟩

theorem Length.jrl (cc : Cond) (d : BitVec 16) : Length.Statement (.jrl cc d) :=
  fun _ => ⟨Nat.le_of_ble_eq_true rfl, Nat.le_of_ble_eq_true rfl⟩

theorem Length.ldx (a : BitVec 8) (v : BitVec 8) : Length.Statement (.ldx a v) :=
  fun _ => ⟨Nat.le_of_ble_eq_true rfl, Nat.le_of_ble_eq_true rfl⟩

theorem Length.swi (n : BitVec 3) : Length.Statement (.swi n) :=
  fun _ => ⟨Nat.le_of_ble_eq_true rfl, Nat.le_of_ble_eq_true rfl⟩

theorem Length.ldrI (sz : Size) (r : RegOp) (imm : BitVec sz.bits) :
    Length.Statement (.ldrI sz r imm) :=
  fun _ => length_of_prefix (regPrefix_length sz r) _ (by
    have := bytes_le_four sz
    rw [immBytes_length]
    omega)

theorem Length.pushr (sz : Size) (r : RegOp) : Length.Statement (.pushr sz r) :=
  fun _ => length_of_short (regPrefix_length sz r) _ (by decide)

theorem Length.popr (sz : Size) (r : RegOp) : Length.Statement (.popr sz r) :=
  fun _ => length_of_short (regPrefix_length sz r) _ (by decide)

theorem Length.cplr (sz : Size) (r : RegOp) : Length.Statement (.cplr sz r) :=
  fun _ => length_of_short (regPrefix_length sz r) _ (by decide)

theorem Length.negr (sz : Size) (r : RegOp) : Length.Statement (.negr sz r) :=
  fun _ => length_of_short (regPrefix_length sz r) _ (by decide)

theorem Length.mulrrI (sz : Size) (r : RegOp) (imm : BitVec sz.bits) :
    Length.Statement (.mulrrI sz r imm) :=
  fun _ => length_of_prefix (regPrefix_length sz r) _ (by
    have := bytes_le_four sz
    rw [immBytes_length]
    omega)

theorem Length.mulsrrI (sz : Size) (r : RegOp) (imm : BitVec sz.bits) :
    Length.Statement (.mulsrrI sz r imm) :=
  fun _ => length_of_prefix (regPrefix_length sz r) _ (by
    have := bytes_le_four sz
    rw [immBytes_length]
    omega)

theorem Length.divrrI (sz : Size) (r : RegOp) (imm : BitVec sz.bits) :
    Length.Statement (.divrrI sz r imm) :=
  fun _ => length_of_prefix (regPrefix_length sz r) _ (by
    have := bytes_le_four sz
    rw [immBytes_length]
    omega)

theorem Length.divsrrI (sz : Size) (r : RegOp) (imm : BitVec sz.bits) :
    Length.Statement (.divsrrI sz r imm) :=
  fun _ => length_of_prefix (regPrefix_length sz r) _ (by
    have := bytes_le_four sz
    rw [immBytes_length]
    omega)

theorem Length.link (r : RegOp) (d : BitVec 16) : Length.Statement (.link r d) :=
  fun _ => length_of_prefix (regPrefix_length .L r) _ (t := bytes16 d)
    (Nat.le_of_ble_eq_true rfl)

theorem Length.unlk (r : RegOp) : Length.Statement (.unlk r) :=
  fun _ => length_of_short (regPrefix_length .L r) _ (by decide)

theorem Length.bs1f (r : RegOp) : Length.Statement (.bs1f r) :=
  fun _ => length_of_short (regPrefix_length .W r) _ (by decide)

theorem Length.bs1b (r : RegOp) : Length.Statement (.bs1b r) :=
  fun _ => length_of_short (regPrefix_length .W r) _ (by decide)

theorem Length.daa (r : RegOp) : Length.Statement (.daa r) :=
  fun _ => length_of_short (regPrefix_length .B r) _ (by decide)

theorem Length.extz (sz : Size) (r : RegOp) : Length.Statement (.extz sz r) :=
  fun _ => length_of_short (regPrefix_length sz r) _ (by decide)

theorem Length.exts (sz : Size) (r : RegOp) : Length.Statement (.exts sz r) :=
  fun _ => length_of_short (regPrefix_length sz r) _ (by decide)

theorem Length.paa (sz : Size) (r : RegOp) : Length.Statement (.paa sz r) :=
  fun _ => length_of_short (regPrefix_length sz r) _ (by decide)

theorem Length.mirr (r : RegOp) : Length.Statement (.mirr r) :=
  fun _ => length_of_short (regPrefix_length .W r) _ (by decide)

theorem Length.mula (r : RegOp) : Length.Statement (.mula r) :=
  fun _ => length_of_short (regPrefix_length .W r) _ (by decide)

theorem Length.djnz (sz : Size) (r : RegOp) (d : BitVec 8) : Length.Statement (.djnz sz r d) :=
  fun _ => length_of_prefix (regPrefix_length sz r) _ (t := [d])
    (Nat.le_of_ble_eq_true rfl)

theorem Length.andcfNr (sz : Size) (n : BitVec 4) (r : RegOp) :
    Length.Statement (.andcfNr sz n r) :=
  fun _ => length_of_prefix (regPrefix_length sz r) _ (t := [n.setWidth 8])
    (Nat.le_of_ble_eq_true rfl)

theorem Length.orcfNr (sz : Size) (n : BitVec 4) (r : RegOp) :
    Length.Statement (.orcfNr sz n r) :=
  fun _ => length_of_prefix (regPrefix_length sz r) _ (t := [n.setWidth 8])
    (Nat.le_of_ble_eq_true rfl)

theorem Length.xorcfNr (sz : Size) (n : BitVec 4) (r : RegOp) :
    Length.Statement (.xorcfNr sz n r) :=
  fun _ => length_of_prefix (regPrefix_length sz r) _ (t := [n.setWidth 8])
    (Nat.le_of_ble_eq_true rfl)

theorem Length.ldcfNr (sz : Size) (n : BitVec 4) (r : RegOp) :
    Length.Statement (.ldcfNr sz n r) :=
  fun _ => length_of_prefix (regPrefix_length sz r) _ (t := [n.setWidth 8])
    (Nat.le_of_ble_eq_true rfl)

theorem Length.stcfNr (sz : Size) (n : BitVec 4) (r : RegOp) :
    Length.Statement (.stcfNr sz n r) :=
  fun _ => length_of_prefix (regPrefix_length sz r) _ (t := [n.setWidth 8])
    (Nat.le_of_ble_eq_true rfl)

theorem Length.andcfAr (sz : Size) (r : RegOp) : Length.Statement (.andcfAr sz r) :=
  fun _ => length_of_short (regPrefix_length sz r) _ (by decide)

theorem Length.orcfAr (sz : Size) (r : RegOp) : Length.Statement (.orcfAr sz r) :=
  fun _ => length_of_short (regPrefix_length sz r) _ (by decide)

theorem Length.xorcfAr (sz : Size) (r : RegOp) : Length.Statement (.xorcfAr sz r) :=
  fun _ => length_of_short (regPrefix_length sz r) _ (by decide)

theorem Length.ldcfAr (sz : Size) (r : RegOp) : Length.Statement (.ldcfAr sz r) :=
  fun _ => length_of_short (regPrefix_length sz r) _ (by decide)

theorem Length.stcfAr (sz : Size) (r : RegOp) : Length.Statement (.stcfAr sz r) :=
  fun _ => length_of_short (regPrefix_length sz r) _ (by decide)

theorem Length.ldcCr (sz : Size) (cr : BitVec 8) (r : RegOp) :
    Length.Statement (.ldcCr sz cr r) :=
  fun _ => length_of_prefix (regPrefix_length sz r) _ (t := [cr])
    (Nat.le_of_ble_eq_true rfl)

theorem Length.ldcR (sz : Size) (r : RegOp) (cr : BitVec 8) :
    Length.Statement (.ldcR sz r cr) :=
  fun _ => length_of_prefix (regPrefix_length sz r) _ (t := [cr])
    (Nat.le_of_ble_eq_true rfl)

theorem Length.resNr (sz : Size) (n : BitVec 4) (r : RegOp) :
    Length.Statement (.resNr sz n r) :=
  fun _ => length_of_prefix (regPrefix_length sz r) _ (t := [n.setWidth 8])
    (Nat.le_of_ble_eq_true rfl)

theorem Length.setNr (sz : Size) (n : BitVec 4) (r : RegOp) :
    Length.Statement (.setNr sz n r) :=
  fun _ => length_of_prefix (regPrefix_length sz r) _ (t := [n.setWidth 8])
    (Nat.le_of_ble_eq_true rfl)

theorem Length.chgNr (sz : Size) (n : BitVec 4) (r : RegOp) :
    Length.Statement (.chgNr sz n r) :=
  fun _ => length_of_prefix (regPrefix_length sz r) _ (t := [n.setWidth 8])
    (Nat.le_of_ble_eq_true rfl)

theorem Length.bitNr (sz : Size) (n : BitVec 4) (r : RegOp) :
    Length.Statement (.bitNr sz n r) :=
  fun _ => length_of_prefix (regPrefix_length sz r) _ (t := [n.setWidth 8])
    (Nat.le_of_ble_eq_true rfl)

theorem Length.tsetNr (sz : Size) (n : BitVec 4) (r : RegOp) :
    Length.Statement (.tsetNr sz n r) :=
  fun _ => length_of_prefix (regPrefix_length sz r) _ (t := [n.setWidth 8])
    (Nat.le_of_ble_eq_true rfl)

theorem Length.minc1 (m : BitVec 16) (r : RegOp) : Length.Statement (.minc1 m r) :=
  fun _ => length_of_prefix (regPrefix_length .W r) _ (t := bytes16 m)
    (Nat.le_of_ble_eq_true rfl)

theorem Length.minc2 (m : BitVec 16) (r : RegOp) : Length.Statement (.minc2 m r) :=
  fun _ => length_of_prefix (regPrefix_length .W r) _ (t := bytes16 m)
    (Nat.le_of_ble_eq_true rfl)

theorem Length.minc4 (m : BitVec 16) (r : RegOp) : Length.Statement (.minc4 m r) :=
  fun _ => length_of_prefix (regPrefix_length .W r) _ (t := bytes16 m)
    (Nat.le_of_ble_eq_true rfl)

theorem Length.mdec1 (m : BitVec 16) (r : RegOp) : Length.Statement (.mdec1 m r) :=
  fun _ => length_of_prefix (regPrefix_length .W r) _ (t := bytes16 m)
    (Nat.le_of_ble_eq_true rfl)

theorem Length.mdec2 (m : BitVec 16) (r : RegOp) : Length.Statement (.mdec2 m r) :=
  fun _ => length_of_prefix (regPrefix_length .W r) _ (t := bytes16 m)
    (Nat.le_of_ble_eq_true rfl)

theorem Length.mdec4 (m : BitVec 16) (r : RegOp) : Length.Statement (.mdec4 m r) :=
  fun _ => length_of_prefix (regPrefix_length .W r) _ (t := bytes16 m)
    (Nat.le_of_ble_eq_true rfl)

theorem Length.mulRr (sz : Size) (R : BitVec 3) (r : RegOp) :
    Length.Statement (.mulRr sz R r) :=
  fun _ => length_of_short (regPrefix_length sz r) _ (by decide)

theorem Length.mulsRr (sz : Size) (R : BitVec 3) (r : RegOp) :
    Length.Statement (.mulsRr sz R r) :=
  fun _ => length_of_short (regPrefix_length sz r) _ (by decide)

theorem Length.divRr (sz : Size) (R : BitVec 3) (r : RegOp) :
    Length.Statement (.divRr sz R r) :=
  fun _ => length_of_short (regPrefix_length sz r) _ (by decide)

theorem Length.divsRr (sz : Size) (R : BitVec 3) (r : RegOp) :
    Length.Statement (.divsRr sz R r) :=
  fun _ => length_of_short (regPrefix_length sz r) _ (by decide)

theorem Length.incNr (sz : Size) (n : BitVec 3) (r : RegOp) :
    Length.Statement (.incNr sz n r) :=
  fun _ => length_of_short (regPrefix_length sz r) _ (by decide)

theorem Length.decNr (sz : Size) (n : BitVec 3) (r : RegOp) :
    Length.Statement (.decNr sz n r) :=
  fun _ => length_of_short (regPrefix_length sz r) _ (by decide)

theorem Length.scc (sz : Size) (cc : Cond) (r : RegOp) : Length.Statement (.scc sz cc r) :=
  fun _ => length_of_short (regPrefix_length sz r) _ (by decide)

theorem Length.addRr (sz : Size) (R : BitVec 3) (r : RegOp) :
    Length.Statement (.addRr sz R r) :=
  fun _ => length_of_short (regPrefix_length sz r) _ (by decide)

theorem Length.ldRr (sz : Size) (R : BitVec 3) (r : RegOp) : Length.Statement (.ldRr sz R r) :=
  fun _ => length_of_short (regPrefix_length sz r) _ (by decide)

theorem Length.adcRr (sz : Size) (R : BitVec 3) (r : RegOp) :
    Length.Statement (.adcRr sz R r) :=
  fun _ => length_of_short (regPrefix_length sz r) _ (by decide)

theorem Length.ldrR (sz : Size) (r : RegOp) (R : BitVec 3) : Length.Statement (.ldrR sz r R) :=
  fun _ => length_of_short (regPrefix_length sz r) _ (by decide)

theorem Length.subRr (sz : Size) (R : BitVec 3) (r : RegOp) :
    Length.Statement (.subRr sz R r) :=
  fun _ => length_of_short (regPrefix_length sz r) _ (by decide)

theorem Length.ldrN (sz : Size) (r : RegOp) (n : BitVec 3) : Length.Statement (.ldrN sz r n) :=
  fun _ => length_of_short (regPrefix_length sz r) _ (by decide)

theorem Length.sbcRr (sz : Size) (R : BitVec 3) (r : RegOp) :
    Length.Statement (.sbcRr sz R r) :=
  fun _ => length_of_short (regPrefix_length sz r) _ (by decide)

theorem Length.exRr (sz : Size) (R : BitVec 3) (r : RegOp) : Length.Statement (.exRr sz R r) :=
  fun _ => length_of_short (regPrefix_length sz r) _ (by decide)

theorem Length.andRr (sz : Size) (R : BitVec 3) (r : RegOp) :
    Length.Statement (.andRr sz R r) :=
  fun _ => length_of_short (regPrefix_length sz r) _ (by decide)

theorem Length.addrI (sz : Size) (r : RegOp) (imm : BitVec sz.bits) :
    Length.Statement (.addrI sz r imm) :=
  fun _ => length_of_prefix (regPrefix_length sz r) _ (by
    have := bytes_le_four sz
    rw [immBytes_length]
    omega)

theorem Length.adcrI (sz : Size) (r : RegOp) (imm : BitVec sz.bits) :
    Length.Statement (.adcrI sz r imm) :=
  fun _ => length_of_prefix (regPrefix_length sz r) _ (by
    have := bytes_le_four sz
    rw [immBytes_length]
    omega)

theorem Length.subrI (sz : Size) (r : RegOp) (imm : BitVec sz.bits) :
    Length.Statement (.subrI sz r imm) :=
  fun _ => length_of_prefix (regPrefix_length sz r) _ (by
    have := bytes_le_four sz
    rw [immBytes_length]
    omega)

theorem Length.sbcrI (sz : Size) (r : RegOp) (imm : BitVec sz.bits) :
    Length.Statement (.sbcrI sz r imm) :=
  fun _ => length_of_prefix (regPrefix_length sz r) _ (by
    have := bytes_le_four sz
    rw [immBytes_length]
    omega)

theorem Length.andrI (sz : Size) (r : RegOp) (imm : BitVec sz.bits) :
    Length.Statement (.andrI sz r imm) :=
  fun _ => length_of_prefix (regPrefix_length sz r) _ (by
    have := bytes_le_four sz
    rw [immBytes_length]
    omega)

theorem Length.xorrI (sz : Size) (r : RegOp) (imm : BitVec sz.bits) :
    Length.Statement (.xorrI sz r imm) :=
  fun _ => length_of_prefix (regPrefix_length sz r) _ (by
    have := bytes_le_four sz
    rw [immBytes_length]
    omega)

theorem Length.orrI (sz : Size) (r : RegOp) (imm : BitVec sz.bits) :
    Length.Statement (.orrI sz r imm) :=
  fun _ => length_of_prefix (regPrefix_length sz r) _ (by
    have := bytes_le_four sz
    rw [immBytes_length]
    omega)

theorem Length.cprI (sz : Size) (r : RegOp) (imm : BitVec sz.bits) :
    Length.Statement (.cprI sz r imm) :=
  fun _ => length_of_prefix (regPrefix_length sz r) _ (by
    have := bytes_le_four sz
    rw [immBytes_length]
    omega)

theorem Length.xorRr (sz : Size) (R : BitVec 3) (r : RegOp) :
    Length.Statement (.xorRr sz R r) :=
  fun _ => length_of_short (regPrefix_length sz r) _ (by decide)

theorem Length.cprN (sz : Size) (r : RegOp) (n : BitVec 3) : Length.Statement (.cprN sz r n) :=
  fun _ => length_of_short (regPrefix_length sz r) _ (by decide)

theorem Length.orRr (sz : Size) (R : BitVec 3) (r : RegOp) : Length.Statement (.orRr sz R r) :=
  fun _ => length_of_short (regPrefix_length sz r) _ (by decide)

theorem Length.rlcNr (sz : Size) (n : BitVec 4) (r : RegOp) :
    Length.Statement (.rlcNr sz n r) :=
  fun _ => length_of_prefix (regPrefix_length sz r) _ (t := [n.setWidth 8])
    (Nat.le_of_ble_eq_true rfl)

theorem Length.rrcNr (sz : Size) (n : BitVec 4) (r : RegOp) :
    Length.Statement (.rrcNr sz n r) :=
  fun _ => length_of_prefix (regPrefix_length sz r) _ (t := [n.setWidth 8])
    (Nat.le_of_ble_eq_true rfl)

theorem Length.rlNr (sz : Size) (n : BitVec 4) (r : RegOp) : Length.Statement (.rlNr sz n r) :=
  fun _ => length_of_prefix (regPrefix_length sz r) _ (t := [n.setWidth 8])
    (Nat.le_of_ble_eq_true rfl)

theorem Length.rrNr (sz : Size) (n : BitVec 4) (r : RegOp) : Length.Statement (.rrNr sz n r) :=
  fun _ => length_of_prefix (regPrefix_length sz r) _ (t := [n.setWidth 8])
    (Nat.le_of_ble_eq_true rfl)

theorem Length.slaNr (sz : Size) (n : BitVec 4) (r : RegOp) :
    Length.Statement (.slaNr sz n r) :=
  fun _ => length_of_prefix (regPrefix_length sz r) _ (t := [n.setWidth 8])
    (Nat.le_of_ble_eq_true rfl)

theorem Length.sraNr (sz : Size) (n : BitVec 4) (r : RegOp) :
    Length.Statement (.sraNr sz n r) :=
  fun _ => length_of_prefix (regPrefix_length sz r) _ (t := [n.setWidth 8])
    (Nat.le_of_ble_eq_true rfl)

theorem Length.sllNr (sz : Size) (n : BitVec 4) (r : RegOp) :
    Length.Statement (.sllNr sz n r) :=
  fun _ => length_of_prefix (regPrefix_length sz r) _ (t := [n.setWidth 8])
    (Nat.le_of_ble_eq_true rfl)

theorem Length.srlNr (sz : Size) (n : BitVec 4) (r : RegOp) :
    Length.Statement (.srlNr sz n r) :=
  fun _ => length_of_prefix (regPrefix_length sz r) _ (t := [n.setWidth 8])
    (Nat.le_of_ble_eq_true rfl)

theorem Length.cpRr (sz : Size) (R : BitVec 3) (r : RegOp) : Length.Statement (.cpRr sz R r) :=
  fun _ => length_of_short (regPrefix_length sz r) _ (by decide)

theorem Length.rlcAr (sz : Size) (r : RegOp) : Length.Statement (.rlcAr sz r) :=
  fun _ => length_of_short (regPrefix_length sz r) _ (by decide)

theorem Length.rrcAr (sz : Size) (r : RegOp) : Length.Statement (.rrcAr sz r) :=
  fun _ => length_of_short (regPrefix_length sz r) _ (by decide)

theorem Length.rlAr (sz : Size) (r : RegOp) : Length.Statement (.rlAr sz r) :=
  fun _ => length_of_short (regPrefix_length sz r) _ (by decide)

theorem Length.rrAr (sz : Size) (r : RegOp) : Length.Statement (.rrAr sz r) :=
  fun _ => length_of_short (regPrefix_length sz r) _ (by decide)

theorem Length.slaAr (sz : Size) (r : RegOp) : Length.Statement (.slaAr sz r) :=
  fun _ => length_of_short (regPrefix_length sz r) _ (by decide)

theorem Length.sraAr (sz : Size) (r : RegOp) : Length.Statement (.sraAr sz r) :=
  fun _ => length_of_short (regPrefix_length sz r) _ (by decide)

theorem Length.sllAr (sz : Size) (r : RegOp) : Length.Statement (.sllAr sz r) :=
  fun _ => length_of_short (regPrefix_length sz r) _ (by decide)

theorem Length.srlAr (sz : Size) (r : RegOp) : Length.Statement (.srlAr sz r) :=
  fun _ => length_of_short (regPrefix_length sz r) _ (by decide)

theorem Length.ldar (sz : Size) (R : BitVec 3) (d : BitVec 16) :
    Length.Statement (.ldar sz R d) :=
  fun _ => ⟨Nat.le_of_ble_eq_true rfl, Nat.le_of_ble_eq_true rfl⟩

theorem Length.ldmI8 (m : MemOp) (v : BitVec 8) : Length.Statement (.ldmI8 m v) :=
  fun _ => length_of_prefix (dstPrefix_length m) _ (t := [v])
    (Nat.le_of_ble_eq_true rfl)

theorem Length.ldwmI16 (m : MemOp) (v : BitVec 16) : Length.Statement (.ldwmI16 m v) :=
  fun _ => length_of_prefix (dstPrefix_length m) _ (t := bytes16 v)
    (Nat.le_of_ble_eq_true rfl)

theorem Length.popm (m : MemOp) : Length.Statement (.popm m) :=
  fun _ => length_of_short (dstPrefix_length m) _ (by decide)

theorem Length.popwm (m : MemOp) : Length.Statement (.popwm m) :=
  fun _ => length_of_short (dstPrefix_length m) _ (by decide)

theorem Length.ldmA16 (m : MemOp) (a : BitVec 16) : Length.Statement (.ldmA16 m a) :=
  fun _ => length_of_prefix (dstPrefix_length m) _ (t := bytes16 a)
    (Nat.le_of_ble_eq_true rfl)

theorem Length.ldwmA16 (m : MemOp) (a : BitVec 16) : Length.Statement (.ldwmA16 m a) :=
  fun _ => length_of_prefix (dstPrefix_length m) _ (t := bytes16 a)
    (Nat.le_of_ble_eq_true rfl)

theorem Length.ldaW (R : BitVec 3) (m : MemOp) : Length.Statement (.ldaW R m) :=
  fun _ => length_of_short (dstPrefix_length m) _ (by decide)

theorem Length.andcfAm (m : MemOp) : Length.Statement (.andcfAm m) :=
  fun _ => length_of_short (dstPrefix_length m) _ (by decide)

theorem Length.orcfAm (m : MemOp) : Length.Statement (.orcfAm m) :=
  fun _ => length_of_short (dstPrefix_length m) _ (by decide)

theorem Length.xorcfAm (m : MemOp) : Length.Statement (.xorcfAm m) :=
  fun _ => length_of_short (dstPrefix_length m) _ (by decide)

theorem Length.ldcfAm (m : MemOp) : Length.Statement (.ldcfAm m) :=
  fun _ => length_of_short (dstPrefix_length m) _ (by decide)

theorem Length.stcfAm (m : MemOp) : Length.Statement (.stcfAm m) :=
  fun _ => length_of_short (dstPrefix_length m) _ (by decide)

theorem Length.ldaL (R : BitVec 3) (m : MemOp) : Length.Statement (.ldaL R m) :=
  fun _ => length_of_short (dstPrefix_length m) _ (by decide)

theorem Length.ldmRB (m : MemOp) (R : BitVec 3) : Length.Statement (.ldmRB m R) :=
  fun _ => length_of_short (dstPrefix_length m) _ (by decide)

theorem Length.ldmRW (m : MemOp) (R : BitVec 3) : Length.Statement (.ldmRW m R) :=
  fun _ => length_of_short (dstPrefix_length m) _ (by decide)

theorem Length.ldmRL (m : MemOp) (R : BitVec 3) : Length.Statement (.ldmRL m R) :=
  fun _ => length_of_short (dstPrefix_length m) _ (by decide)

theorem Length.andcfNm (n : BitVec 3) (m : MemOp) : Length.Statement (.andcfNm n m) :=
  fun _ => length_of_short (dstPrefix_length m) _ (by decide)

theorem Length.orcfNm (n : BitVec 3) (m : MemOp) : Length.Statement (.orcfNm n m) :=
  fun _ => length_of_short (dstPrefix_length m) _ (by decide)

theorem Length.xorcfNm (n : BitVec 3) (m : MemOp) : Length.Statement (.xorcfNm n m) :=
  fun _ => length_of_short (dstPrefix_length m) _ (by decide)

theorem Length.ldcfNm (n : BitVec 3) (m : MemOp) : Length.Statement (.ldcfNm n m) :=
  fun _ => length_of_short (dstPrefix_length m) _ (by decide)

theorem Length.stcfNm (n : BitVec 3) (m : MemOp) : Length.Statement (.stcfNm n m) :=
  fun _ => length_of_short (dstPrefix_length m) _ (by decide)

theorem Length.tsetNm (n : BitVec 3) (m : MemOp) : Length.Statement (.tsetNm n m) :=
  fun _ => length_of_short (dstPrefix_length m) _ (by decide)

theorem Length.resNm (n : BitVec 3) (m : MemOp) : Length.Statement (.resNm n m) :=
  fun _ => length_of_short (dstPrefix_length m) _ (by decide)

theorem Length.setNm (n : BitVec 3) (m : MemOp) : Length.Statement (.setNm n m) :=
  fun _ => length_of_short (dstPrefix_length m) _ (by decide)

theorem Length.chgNm (n : BitVec 3) (m : MemOp) : Length.Statement (.chgNm n m) :=
  fun _ => length_of_short (dstPrefix_length m) _ (by decide)

theorem Length.bitNm (n : BitVec 3) (m : MemOp) : Length.Statement (.bitNm n m) :=
  fun _ => length_of_short (dstPrefix_length m) _ (by decide)

theorem Length.jpm (cc : Cond) (m : MemOp) : Length.Statement (.jpm cc m) :=
  fun _ => length_of_short (dstPrefix_length m) _ (by decide)

theorem Length.callm (cc : Cond) (m : MemOp) : Length.Statement (.callm cc m) :=
  fun _ => length_of_short (dstPrefix_length m) _ (by decide)

theorem Length.retcc (cc : Cond) : Length.Statement (.retcc cc) :=
  fun _ => ⟨Nat.le_of_ble_eq_true rfl, Nat.le_of_ble_eq_true rfl⟩

theorem Length.pushm (sz : Size) (m : MemOp) : Length.Statement (.pushm sz m) :=
  fun _ => length_of_short (srcPrefix_length sz m) _ (by decide)

theorem Length.rld (m : MemOp) : Length.Statement (.rld m) :=
  fun _ => length_of_short (srcPrefix_length .B m) _ (by decide)

theorem Length.rrd (m : MemOp) : Length.Statement (.rrd m) :=
  fun _ => length_of_short (srcPrefix_length .B m) _ (by decide)

theorem Length.ldi (sz : Size) (p : BlockPair) : Length.Statement (.ldi sz p) :=
  fun _ => ⟨Nat.le_of_ble_eq_true rfl, Nat.le_of_ble_eq_true rfl⟩

theorem Length.ldir (sz : Size) (p : BlockPair) : Length.Statement (.ldir sz p) :=
  fun _ => ⟨Nat.le_of_ble_eq_true rfl, Nat.le_of_ble_eq_true rfl⟩

theorem Length.ldd (sz : Size) (p : BlockPair) : Length.Statement (.ldd sz p) :=
  fun _ => ⟨Nat.le_of_ble_eq_true rfl, Nat.le_of_ble_eq_true rfl⟩

theorem Length.lddr (sz : Size) (p : BlockPair) : Length.Statement (.lddr sz p) :=
  fun _ => ⟨Nat.le_of_ble_eq_true rfl, Nat.le_of_ble_eq_true rfl⟩

theorem Length.cpi (sz : Size) (R : BitVec 3) : Length.Statement (.cpi sz R) :=
  fun _ => ⟨Nat.le_of_ble_eq_true rfl, Nat.le_of_ble_eq_true rfl⟩

theorem Length.cpir (sz : Size) (R : BitVec 3) : Length.Statement (.cpir sz R) :=
  fun _ => ⟨Nat.le_of_ble_eq_true rfl, Nat.le_of_ble_eq_true rfl⟩

theorem Length.cpd (sz : Size) (R : BitVec 3) : Length.Statement (.cpd sz R) :=
  fun _ => ⟨Nat.le_of_ble_eq_true rfl, Nat.le_of_ble_eq_true rfl⟩

theorem Length.cpdr (sz : Size) (R : BitVec 3) : Length.Statement (.cpdr sz R) :=
  fun _ => ⟨Nat.le_of_ble_eq_true rfl, Nat.le_of_ble_eq_true rfl⟩

theorem Length.ldA16m (sz : Size) (a : BitVec 16) (m : MemOp) :
    Length.Statement (.ldA16m sz a m) :=
  fun _ => length_of_prefix (srcPrefix_length sz m) _ (t := bytes16 a)
    (Nat.le_of_ble_eq_true rfl)

theorem Length.ldRm (sz : Size) (R : BitVec 3) (m : MemOp) : Length.Statement (.ldRm sz R m) :=
  fun _ => length_of_short (srcPrefix_length sz m) _ (by decide)

theorem Length.exmR (sz : Size) (m : MemOp) (R : BitVec 3) : Length.Statement (.exmR sz m R) :=
  fun _ => length_of_short (srcPrefix_length sz m) _ (by decide)

theorem Length.addmI (sz : Size) (m : MemOp) (imm : BitVec sz.bits) :
    Length.Statement (.addmI sz m imm) :=
  fun h => length_of_prefix (srcPrefix_length sz m) _ (by
    have := bytes_le_two h
    rw [immBytes_length]
    omega)

theorem Length.adcmI (sz : Size) (m : MemOp) (imm : BitVec sz.bits) :
    Length.Statement (.adcmI sz m imm) :=
  fun h => length_of_prefix (srcPrefix_length sz m) _ (by
    have := bytes_le_two h
    rw [immBytes_length]
    omega)

theorem Length.submI (sz : Size) (m : MemOp) (imm : BitVec sz.bits) :
    Length.Statement (.submI sz m imm) :=
  fun h => length_of_prefix (srcPrefix_length sz m) _ (by
    have := bytes_le_two h
    rw [immBytes_length]
    omega)

theorem Length.sbcmI (sz : Size) (m : MemOp) (imm : BitVec sz.bits) :
    Length.Statement (.sbcmI sz m imm) :=
  fun h => length_of_prefix (srcPrefix_length sz m) _ (by
    have := bytes_le_two h
    rw [immBytes_length]
    omega)

theorem Length.andmI (sz : Size) (m : MemOp) (imm : BitVec sz.bits) :
    Length.Statement (.andmI sz m imm) :=
  fun h => length_of_prefix (srcPrefix_length sz m) _ (by
    have := bytes_le_two h
    rw [immBytes_length]
    omega)

theorem Length.xormI (sz : Size) (m : MemOp) (imm : BitVec sz.bits) :
    Length.Statement (.xormI sz m imm) :=
  fun h => length_of_prefix (srcPrefix_length sz m) _ (by
    have := bytes_le_two h
    rw [immBytes_length]
    omega)

theorem Length.ormI (sz : Size) (m : MemOp) (imm : BitVec sz.bits) :
    Length.Statement (.ormI sz m imm) :=
  fun h => length_of_prefix (srcPrefix_length sz m) _ (by
    have := bytes_le_two h
    rw [immBytes_length]
    omega)

theorem Length.cpmI (sz : Size) (m : MemOp) (imm : BitVec sz.bits) :
    Length.Statement (.cpmI sz m imm) :=
  fun h => length_of_prefix (srcPrefix_length sz m) _ (by
    have := bytes_le_two h
    rw [immBytes_length]
    omega)

theorem Length.mulRm (sz : Size) (R : BitVec 3) (m : MemOp) :
    Length.Statement (.mulRm sz R m) :=
  fun _ => length_of_short (srcPrefix_length sz m) _ (by decide)

theorem Length.mulsRm (sz : Size) (R : BitVec 3) (m : MemOp) :
    Length.Statement (.mulsRm sz R m) :=
  fun _ => length_of_short (srcPrefix_length sz m) _ (by decide)

theorem Length.divRm (sz : Size) (R : BitVec 3) (m : MemOp) :
    Length.Statement (.divRm sz R m) :=
  fun _ => length_of_short (srcPrefix_length sz m) _ (by decide)

theorem Length.divsRm (sz : Size) (R : BitVec 3) (m : MemOp) :
    Length.Statement (.divsRm sz R m) :=
  fun _ => length_of_short (srcPrefix_length sz m) _ (by decide)

theorem Length.incNm (sz : Size) (n : BitVec 3) (m : MemOp) :
    Length.Statement (.incNm sz n m) :=
  fun _ => length_of_short (srcPrefix_length sz m) _ (by decide)

theorem Length.decNm (sz : Size) (n : BitVec 3) (m : MemOp) :
    Length.Statement (.decNm sz n m) :=
  fun _ => length_of_short (srcPrefix_length sz m) _ (by decide)

theorem Length.rlcm (sz : Size) (m : MemOp) : Length.Statement (.rlcm sz m) :=
  fun _ => length_of_short (srcPrefix_length sz m) _ (by decide)

theorem Length.rrcm (sz : Size) (m : MemOp) : Length.Statement (.rrcm sz m) :=
  fun _ => length_of_short (srcPrefix_length sz m) _ (by decide)

theorem Length.rlm (sz : Size) (m : MemOp) : Length.Statement (.rlm sz m) :=
  fun _ => length_of_short (srcPrefix_length sz m) _ (by decide)

theorem Length.rrm (sz : Size) (m : MemOp) : Length.Statement (.rrm sz m) :=
  fun _ => length_of_short (srcPrefix_length sz m) _ (by decide)

theorem Length.slam (sz : Size) (m : MemOp) : Length.Statement (.slam sz m) :=
  fun _ => length_of_short (srcPrefix_length sz m) _ (by decide)

theorem Length.sram (sz : Size) (m : MemOp) : Length.Statement (.sram sz m) :=
  fun _ => length_of_short (srcPrefix_length sz m) _ (by decide)

theorem Length.sllm (sz : Size) (m : MemOp) : Length.Statement (.sllm sz m) :=
  fun _ => length_of_short (srcPrefix_length sz m) _ (by decide)

theorem Length.srlm (sz : Size) (m : MemOp) : Length.Statement (.srlm sz m) :=
  fun _ => length_of_short (srcPrefix_length sz m) _ (by decide)

theorem Length.addRm (sz : Size) (R : BitVec 3) (m : MemOp) :
    Length.Statement (.addRm sz R m) :=
  fun _ => length_of_short (srcPrefix_length sz m) _ (by decide)

theorem Length.addmR (sz : Size) (m : MemOp) (R : BitVec 3) :
    Length.Statement (.addmR sz m R) :=
  fun _ => length_of_short (srcPrefix_length sz m) _ (by decide)

theorem Length.adcRm (sz : Size) (R : BitVec 3) (m : MemOp) :
    Length.Statement (.adcRm sz R m) :=
  fun _ => length_of_short (srcPrefix_length sz m) _ (by decide)

theorem Length.adcmR (sz : Size) (m : MemOp) (R : BitVec 3) :
    Length.Statement (.adcmR sz m R) :=
  fun _ => length_of_short (srcPrefix_length sz m) _ (by decide)

theorem Length.subRm (sz : Size) (R : BitVec 3) (m : MemOp) :
    Length.Statement (.subRm sz R m) :=
  fun _ => length_of_short (srcPrefix_length sz m) _ (by decide)

theorem Length.submR (sz : Size) (m : MemOp) (R : BitVec 3) :
    Length.Statement (.submR sz m R) :=
  fun _ => length_of_short (srcPrefix_length sz m) _ (by decide)

theorem Length.sbcRm (sz : Size) (R : BitVec 3) (m : MemOp) :
    Length.Statement (.sbcRm sz R m) :=
  fun _ => length_of_short (srcPrefix_length sz m) _ (by decide)

theorem Length.sbcmR (sz : Size) (m : MemOp) (R : BitVec 3) :
    Length.Statement (.sbcmR sz m R) :=
  fun _ => length_of_short (srcPrefix_length sz m) _ (by decide)

theorem Length.andRm (sz : Size) (R : BitVec 3) (m : MemOp) :
    Length.Statement (.andRm sz R m) :=
  fun _ => length_of_short (srcPrefix_length sz m) _ (by decide)

theorem Length.andmR (sz : Size) (m : MemOp) (R : BitVec 3) :
    Length.Statement (.andmR sz m R) :=
  fun _ => length_of_short (srcPrefix_length sz m) _ (by decide)

theorem Length.xorRm (sz : Size) (R : BitVec 3) (m : MemOp) :
    Length.Statement (.xorRm sz R m) :=
  fun _ => length_of_short (srcPrefix_length sz m) _ (by decide)

theorem Length.xormR (sz : Size) (m : MemOp) (R : BitVec 3) :
    Length.Statement (.xormR sz m R) :=
  fun _ => length_of_short (srcPrefix_length sz m) _ (by decide)

theorem Length.orRm (sz : Size) (R : BitVec 3) (m : MemOp) : Length.Statement (.orRm sz R m) :=
  fun _ => length_of_short (srcPrefix_length sz m) _ (by decide)

theorem Length.ormR (sz : Size) (m : MemOp) (R : BitVec 3) : Length.Statement (.ormR sz m R) :=
  fun _ => length_of_short (srcPrefix_length sz m) _ (by decide)

theorem Length.cpRm (sz : Size) (R : BitVec 3) (m : MemOp) : Length.Statement (.cpRm sz R m) :=
  fun _ => length_of_short (srcPrefix_length sz m) _ (by decide)

theorem Length.cpmR (sz : Size) (m : MemOp) (R : BitVec 3) : Length.Statement (.cpmR sz m R) :=
  fun _ => length_of_short (srcPrefix_length sz m) _ (by decide)

end Sys2Proof.Laws
end

