-- ==== Sys2Proof/Laws/Step.lean ====
section
/-!
SUPPORT. Everything a step can do: one lemma for an instruction, one for a step, one for a
reset that cuts an activity off.
-/

namespace Sys2Proof.Machine

/-- An instruction that ends in a next state: none while halted, the next element of a block
instruction under way, or the instruction the bytes at the pc decode to. -/
theorem instruction_eq_next {s t : State} (h : instruction s = .next t) :
    (s.halted = true ∧ t = s) ∨
      (s.halted = false ∧ ∃ i n, exec i (s.advance n) = .next t ∧
        ((∃ r, s.repeating = some r ∧ i = r.instr ∧ n = 2) ∨
          (s.repeating = none ∧ decode s.fetchBytes = .ok (i, n)))) := by
  unfold instruction at h
  split at h
  · cases h
    exact .inl ⟨‹_›, rfl⟩
  · rename_i hh
    refine .inr ⟨by simpa using hh, ?_⟩
    split at h
    · rename_i r hr
      exact ⟨_, _, h, .inl ⟨r, hr, rfl, rfl⟩⟩
    · rename_i hr
      split at h
      · rename_i i n hd
        exact ⟨i, n, h, .inr ⟨hr, hd⟩⟩
      · cases h

/-- A step that ends in a next state: an offer that is accepted, or an instruction after an
offer that is not, or with none. -/
theorem step_eq_next {s t : State} (h : step s = .next t) :
    (s.offers = [] ∧ instruction s = .next t) ∨
      ∃ o later, s.offers = o :: later ∧
        (({ s with offers := later } : State).accept o = some t ∨
          ({ s with offers := later } : State).accept o = none ∧
            instruction { s with offers := later } = .next t) := by
  unfold step at h
  split at h
  · exact .inl ⟨‹_›, h⟩
  · rename_i o later ho
    refine .inr ⟨o, later, ho, ?_⟩
    split at h
    · rename_i u hu
      cases h
      exact .inl hu
    · exact .inr ⟨‹_›, h⟩

/-- Reset sets what R281 states whatever it cuts off, and each byte of memory is as it was or
as one of the first `done` stores of the activity leaves it. -/
theorem cutOff_spec (s : State) (during : Activity) (done : Nat)
    (h : Memory.wf s.mem = true) :
    Memory.wf (s.cutOff during done).mem = true ∧
      (∀ a, (s.cutOff during done).cell a = s.cell a ∨
        s.area a = .ram ∧ ∃ c ∈ (s.storesOf during).take done,
          cellOf c.1 = cellOf a ∧ (s.cutOff during done).cell a = c.2) ∧
      (s.cutOff during done).max = true ∧ (s.cutOff during done).rfp = 0 ∧
      (s.cutOff during done).iff = 7 ∧ (s.cutOff during done).xsp = 0x100 ∧
      (s.cutOff during done).halted = false ∧ (s.cutOff during done).repeating = none ∧
      (s.cutOff during done).offers = s.offers ∧
      (s.cutOff during done).product = s.product :=
  ⟨replay_wf _ s h, fun a => replay_cell _ s a h, rfl, rfl, rfl, rfl, rfl, rfl,
    replay_offers _ s, replay_product _ s⟩

end Sys2Proof.Machine
end

