-- ==== Sys2Proof/Tests/Slice0.lean ====
section
/-!
SUPPORT. Tests: the well-formedness checks refuse what they should, a word of every
constructor written out from the spec's encoding decodes to it, single steps give the
results of the spec's own test vectors, and witnesses for the hypotheses of the obligations.
-/

namespace Sys2Proof.Tests

set_option Elab.async false

open Sys2Proof.Machine

/-! ## Helpers -/

abbrev xwa : PReg := .bank 0 .xwa
abbrev xbc : PReg := .bank 0 .xbc
abbrev xde : PReg := .bank 0 .xde
abbrev xhl : PReg := .bank 0 .xhl
abbrev xix : PReg := .fixed .xix
abbrev xiy : PReg := .fixed .xiy
abbrev xiz : PReg := .fixed .xiz
abbrev xsp : PReg := .fixed .xsp

/-- F set from a byte. -/
def withF (b : Byte) (s : State) : State :=
  { s with f := Flags.ofByte b }

/-- The state after reset changed by `g`, with `code` at 1000H and the pc there. -/
def small (code : List Byte) (g : State → State := id) : State :=
  (g { State.reset with pc := 0x1000 }).placeBytes 0 code

/-- The next step answers a next state with `p`. -/
def runs (s : State) (p : State → Bool) : Bool :=
  match step s with
  | .next t => p t
  | _ => false

/-- Each byte sequence decodes to its instruction and is what the instruction encodes to. -/
def readsAll (l : List (List Byte × Instr)) : Bool :=
  l.all fun q =>
    (match decode (q.1 ++ [0xFF, 0xFF, 0xFF]) with
      | .ok (i, n) => decide (i = q.2) && n == q.1.length
      | .error _ => false) &&
    encode q.2 == q.1 && WellFormed q.2

/-- The mode does not step `p`. -/
theorem notSteps {e : Eff} {p : PReg}
    (h : e.stepped.all (fun r => decide (r.reg ≠ p)) = true := by decide) :
    ¬ e.stepsReg p := by
  rintro ⟨r, hr, rfl⟩
  simp [hr] at h

/-! ## The well-formedness checks -/

/-- For each check an ill-formed term that it refuses. -/
theorem test_illFormed :
    illFormed (.cplr .L (.short 1)) = some .sizeNotListed ∧
    illFormed (.ldar .B 0 0) = some .sizeNotListed ∧
    illFormed (.addRr .W 0 (.ext 0xE1)) = some .registerCodeNotMultiple ∧
    illFormed (.addRr .L 0 (.ext 0xE2)) = some .registerCodeNotMultiple ∧
    illFormed (.mulrrI .B (.ext 0xE1) 0) = some .registerCodeNotMultiple ∧
    illFormed (.ldRm .B 0 (.index8 0xE1 0)) = some .registerCodeNotMultiple ∧
    illFormed (.ldRm .B 0 (.index16 0xE0 0xE1)) = some .registerCodeNotMultiple ∧
    illFormed (.mulRr .B 0 (.short 1)) = some .noDoubleDestination ∧
    illFormed (.divrrI .B (.short 6) 0) = some .noDoubleDestination ∧
    illFormed (.bitNr .B 8 (.short 1)) = some .bitOutsideByte ∧
    illFormed (.ei 7) = some .eiSevenIsDi := by decide +kernel

/-- Byte sequences that are no instruction (95_test_vectors.md V9, V11 to V21, V25). -/
theorem test_rejects :
    ([([0xD7, 0xE1, 0x88], .registerCodeNotMultiple), ([0x1F], .blankFirst),
      ([0x01], .dummyFirst), ([0xC9, 0x00], .blankSecond), ([0xD9, 0x10], .sizeNotListed),
      ([0xE9, 0x06], .sizeNotListed), ([0xC9, 0x1A], .dummySecond),
      ([0xD4, 0xF3, 0x23], .stepUndefined), ([0xD3, 0xF2, 0x23], .subByteUndefined),
      ([0xB1, 0xF6], .prefixNotAllowed), ([0x06, 0x08], .numberAboveSeven),
      ([0x91, 0x10], .prefixNotAllowed), ([0xCA, 0x40], .noDoubleDestination),
      ([0xC9, 0x33, 0x08], .bitOutsideByte),
      ([0xD3, 0xF1, 0x34, 0x12, 0x02, 0x78, 0x56], .blankSecond)] :
        List (List Byte × Reject)).all
      (fun q => match decode q.1 with
        | .error e => e == q.2
        | .ok _ => false) = true := by decide +kernel

/-! ## Decoding: a word of every constructor

Written from the encoding column of the opcode table and 30_encoding.md R62 to R78. -/

theorem test_decode_load_1 : readsAll [
    ([0x08, 0x6A, 0x9C], .ldA8I8 0x6a 0x9c),
    ([0x09, 0x9C], .pushI8 0x9c),
    ([0x0A, 0x6A, 0xC4, 0x35], .ldwA8I16 0x6a 0x35c4),
    ([0x0B, 0xC4, 0x35], .pushwI16 0x35c4),
    ([0x14], .pushA),
    ([0x15], .popA),
    ([0x18], .pushF),
    ([0x19], .popF),
    ([0x21, 0x9C], .ldRI8 1 0x9c),
    ([0x2B], .pushRW 3),
    ([0x35, 0xC4, 0x35], .ldRI16 5 0x35c4),
    ([0x3F], .pushRL 7),
    ([0x41, 0x64, 0x53, 0x72, 0x81], .ldRI32 1 0x81725364),
    ([0x4B], .popRW 3),
    ([0x5D], .popRL 5),
    ([0xC7, 0x3D, 0x03, 0xA7], .ldrI .B (.ext 0x3d) 0xa7),
    ([0xDF, 0x04], .pushr .W (.short 7)),
    ([0xED, 0x05], .popr .L (.short 5)),
    ([0xC7, 0x3D, 0x8D], .ldRr .B 5 (.ext 0x3d)),
    ([0xEF, 0x99], .ldrR .L (.short 7) 1),
    ([0xD9, 0xAE], .ldrN .W (.short 1) 6),
    ([0xF3, 0x13, 0x41, 0xF3, 0x35], .ldar .L 5 0xf341),
    ([0xBC, 0xF9, 0x00, 0x9C], .ldmI8 (.disp8 4 0xF9) 0x9c),
    ([0xF0, 0x6A, 0x02, 0xC4, 0x35], .ldwmI16 (.abs8 0x6A) 0x35c4)] = true := by
  decide +kernel

theorem test_decode_load_2 : readsAll [
    ([0xF1, 0x34, 0x12, 0x04], .popm (.abs16 0x1234)),
    ([0xF2, 0x9A, 0x78, 0x56, 0x06], .popwm (.abs24 0x56789A)),
    ([0xF3, 0xF0, 0x14, 0x34, 0x12], .ldmA16 (.indExt 0x3C) 0x1234),
    ([0xF3, 0xE5, 0x00, 0xF0, 0x16, 0x34, 0x12], .ldwmA16 (.disp16 0x39 0xF000) 0x1234),
    ([0xF3, 0x03, 0xF0, 0xE0, 0x23], .ldaW 3 (.index8 0xF0 0xE0)),
    ([0xF0, 0x6A, 0x37], .ldaL 7 (.abs8 0x6A)),
    ([0xF1, 0x34, 0x12, 0x41], .ldmRB (.abs16 0x1234) 1),
    ([0xF2, 0x9A, 0x78, 0x56, 0x53], .ldmRW (.abs24 0x56789A) 3),
    ([0xF3, 0xF0, 0x65], .ldmRL (.indExt 0x3C) 5),
    ([0xD3, 0x03, 0xF0, 0xE0, 0x04], .pushm .W (.index8 0xF0 0xE0)),
    ([0xC5, 0xF1, 0x19, 0x34, 0x12], .ldA16m .B 0x1234 (.postInc 0x3C .two)),
    ([0x82, 0x21], .ldRm .B 1 (.ind 2))] = true := by
  decide +kernel

theorem test_decode_exchange : readsAll [
    ([0x16], .exFF),
    ([0xDF, 0x16], .mirr (.short 7)),
    ([0xD7, 0xD6, 0xB9], .exRr .W 1 (.ext 0xd6)),
    ([0x8C, 0xF9, 0x33], .exmR .B (.disp8 4 0xF9) 3)] = true := by
  decide +kernel

theorem test_decode_block : readsAll [
    ([0x85, 0x10], .ldi .B .ixIy),
    ([0x93, 0x11], .ldir .W .deHl),
    ([0x85, 0x12], .ldd .B .ixIy),
    ([0x93, 0x13], .lddr .W .deHl),
    ([0x86, 0x14], .cpi .B 6),
    ([0x96, 0x15], .cpir .W 6),
    ([0x86, 0x16], .cpd .B 6),
    ([0x96, 0x17], .cpdr .W 6)] = true := by
  decide +kernel

theorem test_decode_arithmetic_1 : readsAll [
    ([0xCB, 0x07], .negr .B (.short 3)),
    ([0xDF, 0x08, 0xC4, 0x35], .mulrrI .W (.short 7) 0x35c4),
    ([0xC7, 0xE4, 0x09, 0xA7], .mulsrrI .B (.ext 0xe4) 0xa7),
    ([0xD9, 0x0A, 0xC4, 0x35], .divrrI .W (.short 1) 0x35c4),
    ([0xCB, 0x0B, 0xA7], .divsrrI .B (.short 3) 0xa7),
    ([0xCF, 0x10], .daa (.short 7)),
    ([0xDD, 0x12], .extz .W (.short 5)),
    ([0xE7, 0xE4, 0x13], .exts .L (.ext 0xe4)),
    ([0xDB, 0x14], .paa .W (.short 3)),
    ([0xD7, 0xE4, 0x19], .mula (.ext 0xe4)),
    ([0xDF, 0x38, 0xFE, 0x7F], .minc1 0x7ffe (.short 7)),
    ([0xDD, 0x39, 0xFE, 0x7F], .minc2 0x7ffe (.short 5)),
    ([0xD7, 0xD6, 0x3A, 0xFE, 0x7F], .minc4 0x7ffe (.ext 0xd6)),
    ([0xDB, 0x3C, 0xFE, 0x7F], .mdec1 0x7ffe (.short 3)),
    ([0xDF, 0x3D, 0xFE, 0x7F], .mdec2 0x7ffe (.short 7)),
    ([0xD7, 0xD6, 0x3E, 0xFE, 0x7F], .mdec4 0x7ffe (.ext 0xd6)),
    ([0xD9, 0x45], .mulRr .W 5 (.short 1)),
    ([0xCB, 0x4F], .mulsRr .B 7 (.short 3)),
    ([0xD7, 0xD6, 0x51], .divRr .W 1 (.ext 0xd6)),
    ([0xCD, 0x5B], .divsRr .B 3 (.short 5)),
    ([0xE9, 0x66], .incNr .L 6 (.short 1)),
    ([0xC7, 0x3D, 0x6E], .decNr .B 6 (.ext 0x3d)),
    ([0xED, 0x83], .addRr .L 3 (.short 5)),
    ([0xDB, 0x97], .adcRr .W 7 (.short 3))] = true := by
  decide +kernel

theorem test_decode_arithmetic_2 : readsAll [
    ([0xC7, 0x3D, 0xA3], .subRr .B 3 (.ext 0x3d)),
    ([0xEB, 0xB7], .sbcRr .L 7 (.short 3)),
    ([0xE9, 0xC8, 0x64, 0x53, 0x72, 0x81], .addrI .L (.short 1) 0x81725364),
    ([0xC7, 0x3D, 0xC9, 0xA7], .adcrI .B (.ext 0x3d) 0xa7),
    ([0xDF, 0xCA, 0xC4, 0x35], .subrI .W (.short 7) 0x35c4),
    ([0xED, 0xCB, 0x64, 0x53, 0x72, 0x81], .sbcrI .L (.short 5) 0x81725364),
    ([0xC7, 0x3D, 0xCF, 0xA7], .cprI .B (.ext 0x3d) 0xa7),
    ([0xCB, 0xDE], .cprN .B (.short 3) 6),
    ([0xC7, 0x3D, 0xF3], .cpRr .B 3 (.ext 0x3d)),
    ([0xD0, 0x6A, 0x38, 0xC4, 0x35], .addmI .W (.abs8 0x6A) 0x35c4),
    ([0xC1, 0x34, 0x12, 0x39, 0xA7], .adcmI .B (.abs16 0x1234) 0xa7),
    ([0xD2, 0x9A, 0x78, 0x56, 0x3A, 0xC4, 0x35], .submI .W (.abs24 0x56789A) 0x35c4),
    ([0xC3, 0xF0, 0x3B, 0xA7], .sbcmI .B (.indExt 0x3C) 0xa7),
    ([0xC4, 0xE6, 0x3F, 0xA7], .cpmI .B (.preDec 0x39 .four) 0xa7),
    ([0xD5, 0xF1, 0x45], .mulRm .W 5 (.postInc 0x3C .two)),
    ([0x82, 0x4F], .mulsRm .B 7 (.ind 2)),
    ([0x9C, 0xF9, 0x51], .divRm .W 1 (.disp8 4 0xF9)),
    ([0xC0, 0x6A, 0x5B], .divsRm .B 3 (.abs8 0x6A)),
    ([0xD1, 0x34, 0x12, 0x66], .incNm .W 6 (.abs16 0x1234)),
    ([0xC2, 0x9A, 0x78, 0x56, 0x6E], .decNm .B 6 (.abs24 0x56789A)),
    ([0xC0, 0x6A, 0x81], .addRm .B 1 (.abs8 0x6A)),
    ([0xD1, 0x34, 0x12, 0x8B], .addmR .W (.abs16 0x1234) 3),
    ([0xE2, 0x9A, 0x78, 0x56, 0x95], .adcRm .L 5 (.abs24 0x56789A)),
    ([0xC3, 0xF0, 0x9F], .adcmR .B (.indExt 0x3C) 7)] = true := by
  decide +kernel

theorem test_decode_arithmetic_3 : readsAll [
    ([0xD3, 0xE5, 0x00, 0xF0, 0xA1], .subRm .W 1 (.disp16 0x39 0xF000)),
    ([0xE3, 0x03, 0xF0, 0xE0, 0xAB], .submR .L (.index8 0xF0 0xE0) 3),
    ([0xC3, 0x07, 0xE4, 0xE8, 0xB5], .sbcRm .B 5 (.index16 0xE4 0xE8)),
    ([0xD4, 0xE6, 0xBF], .sbcmR .W (.preDec 0x39 .four) 7),
    ([0xE3, 0xF0, 0xF5], .cpRm .L 5 (.indExt 0x3C)),
    ([0xC3, 0xE5, 0x00, 0xF0, 0xFF], .cpmR .B (.disp16 0x39 0xF000) 7)] = true := by
  decide +kernel

theorem test_decode_logical : readsAll [
    ([0xD7, 0xD6, 0x06], .cplr .W (.ext 0xd6)),
    ([0xDD, 0xC3], .andRr .W 3 (.short 5)),
    ([0xC7, 0x3D, 0xCC, 0xA7], .andrI .B (.ext 0x3d) 0xa7),
    ([0xDB, 0xCD, 0xC4, 0x35], .xorrI .W (.short 3) 0x35c4),
    ([0xEF, 0xCE, 0x64, 0x53, 0x72, 0x81], .orrI .L (.short 7) 0x81725364),
    ([0xD9, 0xD5], .xorRr .W 5 (.short 1)),
    ([0xC7, 0x3D, 0xE1], .orRr .B 1 (.ext 0x3d)),
    ([0xD3, 0xE5, 0x00, 0xF0, 0x3C, 0xC4, 0x35], .andmI .W (.disp16 0x39 0xF000) 0x35c4),
    ([0xC3, 0x03, 0xF0, 0xE0, 0x3D, 0xA7], .xormI .B (.index8 0xF0 0xE0) 0xa7),
    ([0xD3, 0x07, 0xE4, 0xE8, 0x3E, 0xC4, 0x35], .ormI .W (.index16 0xE4 0xE8) 0x35c4),
    ([0xE5, 0xF1, 0xC1], .andRm .L 1 (.postInc 0x3C .two)),
    ([0x82, 0xCB], .andmR .B (.ind 2) 3),
    ([0x9C, 0xF9, 0xD5], .xorRm .W 5 (.disp8 4 0xF9)),
    ([0xE0, 0x6A, 0xDF], .xormR .L (.abs8 0x6A) 7),
    ([0xC1, 0x34, 0x12, 0xE1], .orRm .B 1 (.abs16 0x1234)),
    ([0xD2, 0x9A, 0x78, 0x56, 0xEB], .ormR .W (.abs24 0x56789A) 3)] = true := by
  decide +kernel

theorem test_decode_bit_1 : readsAll [
    ([0x10], .rcf),
    ([0x11], .scf),
    ([0x12], .ccf),
    ([0x13], .zcf),
    ([0xD9, 0x0E], .bs1f (.short 1)),
    ([0xD7, 0xD6, 0x0F], .bs1b (.ext 0xd6)),
    ([0xCB, 0x20, 0x06], .andcfNr .B 6 (.short 3)),
    ([0xD7, 0xD6, 0x21, 0x0B], .orcfNr .W 11 (.ext 0xd6)),
    ([0xCD, 0x22, 0x06], .xorcfNr .B 6 (.short 5)),
    ([0xD9, 0x23, 0x0B], .ldcfNr .W 11 (.short 1)),
    ([0xC7, 0x3D, 0x24, 0x06], .stcfNr .B 6 (.ext 0x3d)),
    ([0xDF, 0x28], .andcfAr .W (.short 7)),
    ([0xCD, 0x29], .orcfAr .B (.short 5)),
    ([0xD7, 0xD6, 0x2A], .xorcfAr .W (.ext 0xd6)),
    ([0xCB, 0x2B], .ldcfAr .B (.short 3)),
    ([0xDF, 0x2C], .stcfAr .W (.short 7)),
    ([0xCB, 0x30, 0x06], .resNr .B 6 (.short 3)),
    ([0xD7, 0xD6, 0x31, 0x0B], .setNr .W 11 (.ext 0xd6)),
    ([0xCD, 0x32, 0x06], .chgNr .B 6 (.short 5)),
    ([0xD9, 0x33, 0x0B], .bitNr .W 11 (.short 1)),
    ([0xC7, 0x3D, 0x34, 0x06], .tsetNr .B 6 (.ext 0x3d)),
    ([0xF3, 0x07, 0xE4, 0xE8, 0x28], .andcfAm (.index16 0xE4 0xE8)),
    ([0xF4, 0xE6, 0x29], .orcfAm (.preDec 0x39 .four)),
    ([0xF5, 0xF1, 0x2A], .xorcfAm (.postInc 0x3C .two))] = true := by
  decide +kernel

theorem test_decode_bit_2 : readsAll [
    ([0xB2, 0x2B], .ldcfAm (.ind 2)),
    ([0xBC, 0xF9, 0x2C], .stcfAm (.disp8 4 0xF9)),
    ([0xF3, 0xE5, 0x00, 0xF0, 0x86], .andcfNm 6 (.disp16 0x39 0xF000)),
    ([0xF3, 0x03, 0xF0, 0xE0, 0x8E], .orcfNm 6 (.index8 0xF0 0xE0)),
    ([0xF3, 0x07, 0xE4, 0xE8, 0x96], .xorcfNm 6 (.index16 0xE4 0xE8)),
    ([0xF4, 0xE6, 0x9E], .ldcfNm 6 (.preDec 0x39 .four)),
    ([0xF5, 0xF1, 0xA6], .stcfNm 6 (.postInc 0x3C .two)),
    ([0xB2, 0xAE], .tsetNm 6 (.ind 2)),
    ([0xBC, 0xF9, 0xB6], .resNm 6 (.disp8 4 0xF9)),
    ([0xF0, 0x6A, 0xBE], .setNm 6 (.abs8 0x6A)),
    ([0xF1, 0x34, 0x12, 0xC6], .chgNm 6 (.abs16 0x1234)),
    ([0xF2, 0x9A, 0x78, 0x56, 0xCE], .bitNm 6 (.abs24 0x56789A))] = true := by
  decide +kernel

theorem test_decode_control : readsAll [
    ([0x00], .nop),
    ([0x02], .pushSR),
    ([0x03], .popSR),
    ([0x04], .min),
    ([0x05], .halt),
    ([0x06, 0x07], .di),
    ([0x06, 0x05], .ei 5),
    ([0x0C], .incf),
    ([0x0D], .decf),
    ([0x17, 0x05], .ldf 5),
    ([0xF7, 0x00, 0x6A, 0x00, 0x9C, 0x00], .ldx 0x6a 0x9c),
    ([0xFE], .swi 6),
    ([0xE7, 0xE4, 0x0C, 0x41, 0xF3], .link (.ext 0xe4) 0xf341),
    ([0xED, 0x0D], .unlk (.short 5)),
    ([0xC7, 0x3D, 0x2E, 0x2A], .ldcCr .B 0x2a (.ext 0x3d)),
    ([0xD9, 0x2F, 0x2A], .ldcR .W (.short 1) 0x2a),
    ([0xDF, 0x7B], .scc .W .ugt (.short 7))] = true := by
  decide +kernel

theorem test_decode_shift_1 : readsAll [
    ([0xDD, 0xE8, 0x0B], .rlcNr .W 11 (.short 5)),
    ([0xE9, 0xE9, 0x0B], .rrcNr .L 11 (.short 1)),
    ([0xC7, 0x3D, 0xEA, 0x06], .rlNr .B 6 (.ext 0x3d)),
    ([0xDF, 0xEB, 0x0B], .rrNr .W 11 (.short 7)),
    ([0xED, 0xEC, 0x0B], .slaNr .L 11 (.short 5)),
    ([0xC7, 0x3D, 0xED, 0x06], .sraNr .B 6 (.ext 0x3d)),
    ([0xDB, 0xEE, 0x0B], .sllNr .W 11 (.short 3)),
    ([0xEF, 0xEF, 0x0B], .srlNr .L 11 (.short 7)),
    ([0xD9, 0xF8], .rlcAr .W (.short 1)),
    ([0xEB, 0xF9], .rrcAr .L (.short 3)),
    ([0xC7, 0x3D, 0xFA], .rlAr .B (.ext 0x3d)),
    ([0xDD, 0xFB], .rrAr .W (.short 5)),
    ([0xE9, 0xFC], .slaAr .L (.short 1)),
    ([0xC7, 0x3D, 0xFD], .sraAr .B (.ext 0x3d)),
    ([0xDF, 0xFE], .sllAr .W (.short 7)),
    ([0xED, 0xFF], .srlAr .L (.short 5)),
    ([0xC3, 0x07, 0xE4, 0xE8, 0x06], .rld (.index16 0xE4 0xE8)),
    ([0xC4, 0xE6, 0x07], .rrd (.preDec 0x39 .four)),
    ([0xD3, 0xF0, 0x78], .rlcm .W (.indExt 0x3C)),
    ([0xC3, 0xE5, 0x00, 0xF0, 0x79], .rrcm .B (.disp16 0x39 0xF000)),
    ([0xD3, 0x03, 0xF0, 0xE0, 0x7A], .rlm .W (.index8 0xF0 0xE0)),
    ([0xC3, 0x07, 0xE4, 0xE8, 0x7B], .rrm .B (.index16 0xE4 0xE8)),
    ([0xD4, 0xE6, 0x7C], .slam .W (.preDec 0x39 .four)),
    ([0xC5, 0xF1, 0x7D], .sram .B (.postInc 0x3C .two))] = true := by
  decide +kernel

theorem test_decode_shift_2 : readsAll [
    ([0x92, 0x7E], .sllm .W (.ind 2)),
    ([0x8C, 0xF9, 0x7F], .srlm .B (.disp8 4 0xF9))] = true := by
  decide +kernel

theorem test_decode_jump : readsAll [
    ([0x07], .reti),
    ([0x0E], .ret),
    ([0x0F, 0x41, 0xF3], .retd 0xf341),
    ([0x1A, 0x34, 0x12], .jp16 0x1234),
    ([0x1B, 0x9A, 0x78, 0x56], .jp24 0x56789a),
    ([0x1C, 0x34, 0x12], .call16 0x1234),
    ([0x1D, 0x9A, 0x78, 0x56], .call24 0x56789a),
    ([0x1E, 0x41, 0xF3], .calr 0xf341),
    ([0x66, 0x9D], .jr .z 0x9d),
    ([0x77, 0x41, 0xF3], .jrl .c 0xf341),
    ([0xD9, 0x1C, 0x9D], .djnz .W (.short 1) 0x9d),
    ([0xF3, 0xF0, 0xDC], .jpm .nov (.indExt 0x3C)),
    ([0xF3, 0xE5, 0x00, 0xF0, 0xED], .callm .pl (.disp16 0x39 0xF000)),
    ([0xB0, 0xFE], .retcc .nz)] = true := by
  decide +kernel

/-! ## One step

The states and results are those of 95_test_vectors.md under the S or V number named; where
no flag is checked the vector leaves it or a free value has it. F is S Z 0 H 0 V N C. -/

/-- V51. -/
theorem test_step_ld_wa : runs (small [0x30, 0x34, 0x12] fun s => s |>.setReg xwa 0xAABBCCDD)
    (fun t =>
      t.reg xwa == 0xAABB1234) = true := by decide +kernel

/-- V63. -/
theorem test_step_ld_across_the_top_of_memory : runs (small [0xD2, 0xFF, 0xFF, 0xFF, 0x20] fun s =>
      s |>.setByte 0xFFFFFF 0x34 |>.setByte 0x000000 0x12)
    (fun t =>
      t.slot .W ⟨xwa, 0⟩ == 0x1234) = true := by decide +kernel

/-- V61. -/
theorem test_step_ld_mem_long : runs (small [0xB4, 0x60] fun s =>
      s |>.setReg xix 0x3000 |>.setReg xwa 0x12345678)
    (fun t =>
      t.memRead .L 0x3000 == 0x12345678) = true := by decide +kernel

/-- V64. -/
theorem test_step_ld_predecrement : runs (small [0xD4, 0xF1, 0x23] fun s =>
      s |>.setReg xix 0x123456 |>.setByte 0x123454 0x33 |>.setByte 0x123455 0x22)
    (fun t =>
      t.reg xix == 0x123454 && t.slot .W ⟨xhl, 0⟩ == 0x2233) = true := by decide +kernel

/-- V45. -/
theorem test_step_ld_postincrement_by_sub_byte : runs (small [0xD5, 0xF2, 0x23] fun s =>
      s |>.setReg xix 0x123456 |>.setByte 0x123456 0x33 |>.setByte 0x123457 0x22)
    (fun t =>
      t.reg xix == 0x12345A && t.slot .W ⟨xhl, 0⟩ == 0x2233) = true := by decide +kernel

/-- V77. -/
theorem test_step_push_wraps_xsp : runs (small [0x2B] fun s =>
      s |>.setReg xsp 0x1 |>.setReg xhl 0x1234)
    (fun t =>
      t.xsp == 0xFFFFFFFF && t.memRead .W 0xFFFFFF == 0x1234) = true := by decide +kernel

/-- V67. -/
theorem test_step_push_f : runs (small [0x18] fun s => s |> withF 0xD7)
    (fun t =>
      t.byte 0xFF == 0xD7 && t.xsp == 0xFF) = true := by decide +kernel

/-- V69. -/
theorem test_step_pop_f : runs (small [0x19] fun s =>
      s |>.setReg xsp 0xFF |>.setByte 0x0000FF 0x28)
    (fun t =>
      t.f == Flags.zero && t.xsp == 0x100) = true := by decide +kernel

/-- S4. -/
theorem test_step_pop_ix : runs (small [0x4C] fun s =>
      s |>.setByte 0x000100 0x56 |>.setByte 0x000101 0x78)
    (fun t =>
      t.xix == 0x7856 && t.xsp == 0x102) = true := by decide +kernel

/-- V75. -/
theorem test_step_popw_mem : runs (small [0xB4, 0x06] fun s =>
      s |>.setReg xsp 0xFE |>.setByte 0x0000FE 0xEF |>.setByte 0x0000FF 0xBE |>.setReg xix
      0x2000)
    (fun t =>
      t.memRead .W 0x2000 == 0xBEEF && t.xsp == 0x100) = true := by decide +kernel

/-- V79. -/
theorem test_step_lda_word : runs (small [0xBD, 0x33, 0x24] fun s =>
      s |>.setReg xiy 0x123456 |>.setReg xix 0xAAAAAAAA)
    (fun t =>
      t.xix == 0xAAAA3489) = true := by decide +kernel

/-- S6. -/
theorem test_step_ldar : runs (small [0xF3, 0x13, 0x41, 0x13, 0x34] fun s => s)
    (fun t =>
      t.xix == 0x2345) = true := by decide +kernel

/-- V93. -/
theorem test_step_ex_previous_bank : runs (small [0xC7, 0xD0, 0xB9] fun s =>
      s |>.setReg xwa 0x1 |>.setReg (.bank 3 .xwa) 0x2)
    (fun t =>
      t.reg xwa == 2 && t.reg (.bank 3 .xwa) == 1) = true := by decide +kernel

/-- V91. -/
theorem test_step_ex_mem : runs (small [0x84, 0x31] fun s =>
      s |>.setReg xix 0x2000 |>.setByte 0x002000 0x34 |>.setReg xwa 0x12)
    (fun t =>
      t.byte 0x2000 == 0x12 && t.regA == 0x34) = true := by decide +kernel

/-- S21. -/
theorem test_step_mirr : runs (small [0xDB, 0x16] fun s => s |>.setReg xhl 0x1234)
    (fun t =>
      t.reg xhl == 0x2C48) = true := by decide +kernel

/-- V100. -/
theorem test_step_ldi : runs (small [0x83, 0x10] fun s =>
      s |>.setReg xde 0x3000 |>.setReg xhl 0x2000 |>.setReg xbc 0x1 |>.setByte 0x002000 0xAB |>
      withF 0x16)
    (fun t =>
      t.byte 0x3000 == 0xAB && t.reg xde == 0x3001 && t.reg xhl == 0x2001 && t.regBC == 0 &&
      t.f.byte == 0) = true := by decide +kernel

/-- V114. -/
theorem test_step_ldir_repeats : runs (small [0x83, 0x11] fun s =>
      s |>.setReg xde 0x3000 |>.setReg xhl 0x2000 |>.setReg xbc 0x3)
    (fun t =>
      t.pc == 0x1000 && t.regBC == 2 && t.reg xde == 0x3001) = true := by decide +kernel

/-- V105, its second element. -/
theorem test_step_lddrw_ends : runs (small [0x93, 0x13] fun s =>
      s |>.setReg xhl 0x2000 |>.setReg xde 0x3000 |>.setReg xbc 0x1 |>.setByte 0x002000 0x11
      |>.setByte 0x002001 0x11)
    (fun t =>
      t.memRead .W 0x3000 == 0x1111 && t.reg xhl == 0x1FFE && t.pc == 0x1002) = true := by decide +kernel

/-- V110. -/
theorem test_step_cpiw : runs (small [0x94, 0x14] fun s =>
      s |>.setReg xwa 0x1234 |>.setReg xix 0x2000 |>.setReg xbc 0x5 |>.setByte 0x002000 0x35
      |>.setByte 0x002001 0x12)
    (fun t =>
      t.xix == 0x2002 && t.regBC == 4 && t.f.byte == 0x96) = true := by decide +kernel

/-- V111. -/
theorem test_step_cpi_pointer_is_counter : runs (small [0x81, 0x14] fun s =>
      s |>.setReg xbc 0x2000)
    (fun t =>
      t.reg xbc == 0x2000 && t.f.z && t.f.v) = true := by decide +kernel

/-- V113, its second element. -/
theorem test_step_cpdr_found : runs (small [0x83, 0x17] fun s =>
      s |>.setReg xwa 0x22 |>.setReg xhl 0x2001 |>.setReg xbc 0xFFFF |>.setByte 0x002001 0x22)
    (fun t =>
      t.reg xhl == 0x2000 && t.regBC == 0xFFFE && t.f.z && t.f.v && t.pc == 0x1002) = true := by decide +kernel

/-- V120. -/
theorem test_step_add_byte : runs (small [0xC9, 0xC8, 0x01] fun s => s |>.setReg xwa 0x7F)
    (fun t =>
      t.regA == 0x80 && t.f.byte == 0x94) = true := by decide +kernel

/-- V128. -/
theorem test_step_add_mem : runs (small [0x84, 0x89] fun s =>
      s |>.setReg xix 0x2000 |>.setByte 0x002000 0xF0 |>.setReg xwa 0x20)
    (fun t =>
      t.byte 0x2000 == 0x10 && t.f.byte == 0x01) = true := by decide +kernel

/-- V131. -/
theorem test_step_adc : runs (small [0xC9, 0xC9, 0x00] fun s =>
      s |>.setReg xwa 0xFF |> withF 0x01)
    (fun t =>
      t.regA == 0 && t.f.byte == 0x51) = true := by decide +kernel

/-- V135. -/
theorem test_step_sub : runs (small [0xC9, 0xCA, 0x01] fun s => s |>.setReg xwa 0x80)
    (fun t =>
      t.regA == 0x7F && t.f.byte == 0x16) = true := by decide +kernel

/-- V141. -/
theorem test_step_sbc : runs (small [0xC9, 0xCB, 0x7F] fun s =>
      s |>.setReg xwa 0x80 |> withF 0x01)
    (fun t =>
      t.regA == 0 && t.f.byte == 0x56) = true := by decide +kernel

/-- V144. -/
theorem test_step_cp : runs (small [0xD8, 0xCF, 0x00, 0x80] fun s => s |>.setReg xwa 0x7FFF)
    (fun t =>
      t.reg xwa == 0x7FFF && t.f.byte == 0x87) = true := by decide +kernel

/-- V148. -/
theorem test_step_inc_keeps_carry : runs (small [0xC9, 0x61] fun s =>
      s |>.setReg xwa 0x7F |> withF 0x01)
    (fun t =>
      t.regA == 0x80 && t.f.byte == 0x95) = true := by decide +kernel

/-- V152. -/
theorem test_step_incw_mem : runs (small [0x94, 0x61] fun s =>
      s |>.setReg xix 0x2000 |>.setByte 0x002000 0xFF |>.setByte 0x002001 0xFF)
    (fun t =>
      t.memRead .W 0x2000 == 0 && t.f.byte == 0x50) = true := by decide +kernel

/-- V156. -/
theorem test_step_dec_by_eight : runs (small [0xC9, 0x68] fun s => s |>.setReg xwa 0x07)
    (fun t =>
      t.regA == 0xFF && t.f.byte == 0x92) = true := by decide +kernel

/-- V160. -/
theorem test_step_neg : runs (small [0xD8, 0x07] fun s => s |>.setReg xwa 0x8000)
    (fun t =>
      t.reg xwa == 0x8000 && t.f.byte == 0x87) = true := by decide +kernel

/-- V161. -/
theorem test_step_exts : runs (small [0xE8, 0x13] fun s => s |>.setReg xwa 0x12348000)
    (fun t =>
      t.reg xwa == 0xFFFF8000) = true := by decide +kernel

/-- S48. -/
theorem test_step_extz : runs (small [0xDB, 0x12] fun s => s |>.setReg xhl 0x6789)
    (fun t =>
      t.reg xhl == 0x89) = true := by decide +kernel

/-- V164. -/
theorem test_step_paa : runs (small [0xD8, 0x14] fun s => s |>.setReg xwa 0xFFFF)
    (fun t =>
      t.reg xwa == 0) = true := by decide +kernel

/-- S74. -/
theorem test_step_daa_after_sub : runs (small [0xC9, 0x10] fun s =>
      s |>.setReg xwa 0x2F |> withF 0x12)
    (fun t =>
      t.regA == 0x29 && t.f.byte == 0x12) = true := by decide +kernel

/-- S68. -/
theorem test_step_daa_adds_66 : runs (small [0xC9, 0x10] fun s => s |>.setReg xwa 0x9A)
    (fun t =>
      t.regA == 0 && t.f.byte == 0x55) = true := by decide +kernel

/-- V174. -/
theorem test_step_mul_source_in_destination : runs (small [0xC8, 0x41] fun s =>
      s |>.setReg xwa 0x0305)
    (fun t =>
      t.reg xwa == 0x000F) = true := by decide +kernel

/-- V181. -/
theorem test_step_muls : runs (small [0xCA, 0x49] fun s =>
      s |>.setReg xwa 0x80 |>.setReg xbc 0x7F00)
    (fun t =>
      t.reg xwa == 0xC080) = true := by decide +kernel

/-- S55. -/
theorem test_step_div : runs (small [0xDD, 0x54] fun s =>
      s |>.setReg xix 0x12345678 |>.setReg xiy 0x89AB)
    (fun t =>
      t.xix == 0x0FDA21DA && !t.f.v) = true := by decide +kernel

/-- V186. -/
theorem test_step_div_by_zero : runs (small [0xC9, 0x0A, 0x00] fun s =>
      s |>.setReg xwa 0x1234 |> withF 0xC3)
    (fun t =>
      t.f.byte == 0xC7) = true := by decide +kernel

/-- V189. -/
theorem test_step_divs : runs (small [0xC9, 0x0B, 0x07] fun s => s |>.setReg xwa 0xFF9C)
    (fun t =>
      t.reg xwa == 0xFEF2 && !t.f.v) = true := by decide +kernel

/-- V197. -/
theorem test_step_mula : runs (small [0xDC, 0x19] fun s =>
      s |>.setReg xix 0x7FFFFFFF |>.setReg xde 0x100 |>.setReg xhl 0x200 |>.setByte 0x000100
      0xFF |>.setByte 0x000101 0x7F |>.setByte 0x000200 0xFF |>.setByte 0x000201 0x7F)
    (fun t =>
      t.xix == 0xBFFF0000 && t.reg xhl == 0x1FE && t.f.byte == 0x84) = true := by decide +kernel

/-- S58, its second step. -/
theorem test_step_minc1 : runs (small [0xDC, 0x38, 0x07, 0x00] fun s => s |>.setReg xix 0x1207)
    (fun t =>
      t.xix == 0x1200) = true := by decide +kernel

/-- S63, its second step. -/
theorem test_step_mdec4 : runs (small [0xDC, 0x3E, 0x7C, 0x00] fun s => s |>.setReg xix 0x1280)
    (fun t =>
      t.xix == 0x12FC) = true := by decide +kernel

/-- V210. -/
theorem test_step_and : runs (small [0xC9, 0xCC, 0x0F] fun s => s |>.setReg xwa 0xF0)
    (fun t =>
      t.regA == 0 && t.f.byte == 0x54) = true := by decide +kernel

/-- S81. -/
theorem test_step_or : runs (small [0xDC, 0xE3] fun s =>
      s |>.setReg xhl 0x7350 |>.setReg xix 0x3456)
    (fun t =>
      t.reg xhl == 0x7756 && t.f.byte == 0x04) = true := by decide +kernel

/-- V217. -/
theorem test_step_xorw_mem : runs (small [0x94, 0x3D, 0xFF, 0xFF] fun s =>
      s |>.setReg xix 0x2000 |>.setByte 0x002000 0x34 |>.setByte 0x002001 0x12)
    (fun t =>
      t.memRead .W 0x2000 == 0xEDCB && t.f.byte == 0x80) = true := by decide +kernel

/-- S83. -/
theorem test_step_cpl : runs (small [0xD8, 0x06] fun s => s |>.setReg xwa 0x1234)
    (fun t =>
      t.reg xwa == 0xEDCB && t.f.byte == 0x12) = true := by decide +kernel

/-- V220. -/
theorem test_step_bit : runs (small [0xD8, 0x33, 0x0F] fun s =>
      s |>.setReg xwa 0x8000 |> withF 0x43)
    (fun t =>
      !t.f.z && t.f.h && !t.f.n && t.f.c) = true := by decide +kernel

/-- S101. -/
theorem test_step_tset : runs (small [0xF1, 0x00, 0x01, 0xAB] fun s =>
      s |>.setByte 0x000100 0x20)
    (fun t =>
      t.f.z && t.byte 0x100 == 0x28) = true := by decide +kernel

/-- S98. -/
theorem test_step_res : runs (small [0xF1, 0x00, 0x01, 0xB5] fun s =>
      s |>.setByte 0x000100 0x27)
    (fun t =>
      t.byte 0x100 == 0x07) = true := by decide +kernel

/-- S91. -/
theorem test_step_stcf : runs (small [0xF1, 0x00, 0x01, 0xA5] fun s => s |> withF 0x01)
    (fun t =>
      t.byte 0x100 == 0x20) = true := by decide +kernel

/-- S94. -/
theorem test_step_xorcf : runs (small [0xF1, 0x00, 0x01, 0x96] fun s =>
      s |>.setByte 0x000100 0x40 |> withF 0x01)
    (fun t =>
      !t.f.c) = true := by decide +kernel

/-- S103. -/
theorem test_step_bs1b : runs (small [0xDC, 0x0F] fun s => s |>.setReg xix 0x1200)
    (fun t =>
      t.regA == 0x0C && !t.f.v) = true := by decide +kernel

/-- S96. -/
theorem test_step_zcf : runs (small [0x13] fun s => s |> withF 0x02)
    (fun t =>
      t.f.c && !t.f.n) = true := by decide +kernel

/-- S113. -/
theorem test_step_link : runs (small [0xEE, 0x0C, 0xC0, 0xFF] fun s =>
      s |>.setReg xsp 0x280 |>.setReg xiz 0x290)
    (fun t =>
      t.memRead .L 0x27C == 0x290 && t.xiz == 0x27C && t.xsp == 0x23C) = true := by decide +kernel

/-- S114. -/
theorem test_step_unlk : runs (small [0xEE, 0x0D] fun s =>
      s |>.setReg xsp 0x23C |>.setReg xiz 0x27C |>.setByte 0x00027C 0x90 |>.setByte 0x00027D
      0x02)
    (fun t =>
      t.xsp == 0x280 && t.xiz == 0x290) = true := by decide +kernel

/-- S110, at 1000H with the SR of reset. -/
theorem test_step_swi : runs (small [0xFD] fun s => s)
    (fun t =>
      t.memRead .W 0xFA == 0xF800 && t.memRead .L 0xFC == 0x1001 && t.xsp == 0xFA && t.intnest
      == 1) = true := by decide +kernel

/-- S111. -/
theorem test_step_ldc : runs (small [0xD8, 0x2E, 0x20] fun s => s |>.setReg xwa 0x1234)
    (fun t =>
      t.dmac.at0 == 0x1234) = true := by decide +kernel

/-- S117. -/
theorem test_step_scc : runs (small [0xDB, 0x74] fun s => s |> withF 0x04 |>.setReg xhl 0xAAAA)
    (fun t =>
      t.reg xhl == 1) = true := by decide +kernel

/-- R15: bank 0 to bank 3. -/
theorem test_step_decf_wraps_in_maximum_mode : runs (small [0x0D] fun s => s)
    (fun t =>
      t.rfp == 3) = true := by decide +kernel

/-- S122. -/
theorem test_step_rl : runs (small [0xDB, 0xEA, 0x04] fun s =>
      s |>.setReg xhl 0x6230 |> withF 0x01)
    (fun t =>
      t.reg xhl == 0x230B && t.f.byte == 0x04) = true := by decide +kernel

/-- S125. -/
theorem test_step_sra : runs (small [0xDB, 0xED, 0x04] fun s => s |>.setReg xhl 0x8230)
    (fun t =>
      t.reg xhl == 0xF823 && t.f.byte == 0x84) = true := by decide +kernel

/-- S128. -/
theorem test_step_rld : runs (small [0xC1, 0x00, 0x01, 0x06] fun s =>
      s |>.setReg xwa 0x12 |>.setByte 0x000100 0x34 |> withF 0x01)
    (fun t =>
      t.regA == 0x13 && t.byte 0x100 == 0x42 && t.f.byte == 0x01) = true := by decide +kernel

/-- S131. -/
theorem test_step_jp_mem : runs (small [0xBC, 0x02, 0xD7] fun s =>
      s |>.setReg xix 0x123456 |> withF 0x01)
    (fun t =>
      t.pc == 0x123458) = true := by decide +kernel

/-- V22. -/
theorem test_step_jr_backward : runs (small [0x68, 0xFE] fun s => s)
    (fun t =>
      t.pc == 0x1000) = true := by decide +kernel

/-- S133, at 1000H. -/
theorem test_step_call : runs (small [0x1C, 0x00, 0x90] fun s => s)
    (fun t =>
      t.memRead .L 0xFC == 0x1003 && t.xsp == 0xFC && t.pc == 0x9000) = true := by decide +kernel

/-- the frame of S110, INTNEST 0 before. -/
theorem test_step_reti : runs (small [0x07] fun s =>
      s |>.setReg xsp 0xFA |>.setByte 0x0000FB 0x88 |>.setByte 0x0000FC 0x01 |>.setByte 0x0000FD
      0x84)
    (fun t =>
      t.sr == 0x8800 && t.pc == 0x8401 && t.xsp == 0x100 && t.intnest == 0xFFFF) = true := by decide +kernel

/-- 43_block.md R116: the second element runs though 1000H holds no LDIR any more. -/
theorem test_step_ldir_goes_on_without_fetch : runs (small [0x00, 0x00] fun s =>
      { s |>.setReg xde 0x3000 |>.setReg xhl 0x2000 |>.setReg xbc 2 with
        repeating := some (.ldir .B .deHl) })
    (fun t => t.pc == 0x1000 && t.regBC == 1 && t.repeating == some (.ldir .B .deHl)) = true :=
  by decide +kernel

/-- 20_memory.md R50: ROM takes no store, and the instruction is fetched from it. -/
theorem test_step_store_to_rom : runs (small [0xF2, 0x00, 0x80, 0x00, 0x00, 0x12] fun s =>
      { s with
        pc := 0x9000
        product := { resetProduct with memoryMap :=
          { regions := [⟨0x8000, 0xFFFF, .rom⟩], other := .ram } } })
    (fun t => t.pc == 0x9006 && t.cell 0x8000 == 0) = true := by decide +kernel

/-- 92_eei_decisions.md D21: LDA XIX,(-XIY) is refused. -/
theorem test_step_lda_predecrement :
    (match step (small [0xF4, 0xF6, 0x34]) with
      | .refused why => decide (why = .stepWithoutAccess)
      | _ => false) = true := by decide +kernel

/-- 70_reset_and_hazards.md R280: a reset inside CALL 1234H after the first byte of its
push, the lowest (20_memory.md R55). -/
theorem test_step_reset_inside_call : runs { small [0x1C, 0x34, 0x12] with
      offers := [.resetDuring .instruction 1] }
    (fun t => t.xsp == 0x100 && t.cell 0xFC == 0x03 && t.cell 0xFD == 0x00) = true := by
  decide +kernel

/-- 20_memory.md R55: a reset inside an entry after four byte stores finds the PC stored and
nothing of SR. -/
theorem test_step_reset_inside_entry : runs { small [0x00] with
      offers := [.resetDuring (.entry 7 0x10) 4] }
    (fun t => t.cell 0xFD == 0x10 && t.cell 0xFA == 0x00 && t.cell 0xFB == 0x00) = true := by
  decide +kernel

/-- 47_control.md R196: a reset inside SWI after two byte stores finds SR stored and nothing of
the PC, which R257 has the other way round for an interrupt. -/
theorem test_step_reset_inside_swi : runs { small [0xFD] with
      offers := [.resetDuring .instruction 2] }
    (fun t => t.cell 0xFB == 0xF8 && t.cell 0xFC == 0x00 && t.cell 0xFD == 0x00) = true := by
  decide +kernel

/-- 30_encoding.md R67: in minimum mode a map may send a word code to byte 1 of XIX (log 8). -/
theorem test_word_at_odd_offset :
    ({ State.reset with max := false } : State).resolve .W ⟨.fixed .xix, 1⟩ =
      .next ⟨.fixed .xix, 1⟩ := rfl


/-! ## Witnesses

For every obligation with hypotheses a concrete state and operands that meet all of them
together; where the clauses have hypotheses of their own, one for each. -/

/-- A state of minimum mode. -/
def minimum : State := { State.reset with max := false }

/-- The same on a product that gives a register map of minimum mode. -/
def mapped : State :=
  let codes : List (BitVec 8 × RegDesig) :=
    [(0xF0, ⟨.fixed .xix, 0⟩), (0x70, ⟨.abs 7 .xwa, 0⟩), (0x71, ⟨.abs 7 .xwa, 1⟩)]
  { minimum with product := { resetProduct with minModeRegMap := some codes } }

/-- After reset on a product on which LDA, JP and CALL with (-r32) and (r32+) run. -/
def stepping : State :=
  { State.reset with product := { resetProduct with bareStep := .free } }

/-- After reset on a product with ROM from 8000H to FFFFH and nothing above. -/
def withRom : State :=
  let map : MemoryMap :=
    { regions := [⟨0, 0x7F, .io⟩, ⟨0x80, 0x7FFF, .ram⟩, ⟨0x8000, 0xFFFF, .rom⟩]
      other := .empty }
  { State.reset with product := { resetProduct with memoryMap := map } }

/-- The control registers of a state are within their widths when each kind is. -/
theorem control_of {s : State}
    (h : (CReg.intnest :: ([0, 1, 2, 3].flatMap fun n : BitVec 2 =>
      [CReg.dmas n, .dmad n, .dmac n, .dmam n])).all
        (fun c => s.crFit c (s.creg c) == s.creg c) = true) :
    ∀ c, s.crFit c (s.creg c) = s.creg c := by
  intro c
  simp only [List.all_eq_true, beq_iff_eq] at h
  refine h c ?_
  rcases c with n | n | n | n | _
  all_goals first | (revert n; decide) | decide

theorem witness_DecodeReadsEncodedInstruction :
    WellFormed (.ldrI .L (.ext 0xF0) 0x12345678) = true ∧
    WellFormed (.ldwmI16 (.index16 0xE4 0xE8) 0x1234) = true := by decide +kernel

theorem witness_DecodedInstructionIsWellFormed :
    decode [0xE7, 0xF0, 0x03, 0x78, 0x56, 0x34, 0x12] =
      .ok (.ldrI .L (.ext 0xF0) 0x12345678, 7) ∧
    decode [0xD9, 0x33, 0xF5] = .ok (.bitNr .W 5 (.short 1), 3) ∧
    decode [0xF7, 0x01, 0x20, 0xFF, 0x30, 0x02] = .ok (.ldx 0x20 0x30, 6) :=
  ⟨rfl, rfl, rfl⟩

theorem witness_BlankAndDummyCodesStop :
    let s := small [0xF2, 0x00, 0x80, 0x00, 0x7F]
    (s.halted = false ∧ s.repeating = none ∧ s.offers = [] ∧
      ({ s with offers := [.idle] } : State).offers = .idle :: [] ∧ s.accept .idle = none) ∧
    (match decode ((List.range 7).map fun k => s.codeByte (s.fetchAddr k)) with
      | .error why => decide (why = .blankSecond)
      | .ok _ => false) = true ∧
    (0x50 ≤ (0x57 : Byte).toNat ∧ (0x57 : Byte).toNat ≤ 0x57) ∧ 7 < (0x08 : Byte).toNat ∧
    (0x3F ≤ (0x3F : Byte).toNat ∧ (0x3F : Byte).toNat ≤ 0x3F) ∧ 4 ≤ ([1, 2, 3, 4] : List Byte).length ∧
    (0xD8 ≤ (0xDF : Byte).toNat ∧ (0xDF : Byte).toNat ≤ 0xDF) ∧
    (0xF2 : BitVec 8).toNat % Size.L.bytes ≠ 0 ∧ MemOp.abs8 0 ≠ .ind 0 ∧
    (∀ R, MemOp.abs8 0 ≠ .ind R) ∧ (0x13 : Byte).toNat < 0x14 ∧ MemOp.ind 4 ≠ .ind 3 ∧
    MemOp.ind 4 ≠ .ind 5 ∧ (0x13 : Byte).toNat % 4 = 3 ∧ (0xFE : Byte).toNat % 4 = 2 ∧
    ¬ (0x20 ≤ (0x38 : Byte).toNat ∧ (0x38 : Byte).toNat ≤ 0x27) := by decide +kernel

theorem witness_StepRunsDecodedInstruction :
    (small [0x06, 0x03]).halted = false ∧ (small [0x06, 0x03]).repeating = none ∧
    decode (small [0x06, 0x03]).fetchBytes = .ok (.ei 3, 2) ∧
    (small [0x06, 0x03]).offers = [] ∧
    (small [0x06, 0x03] fun s => { s with offers := [.request 6 0x10] }).offers =
      .request 6 0x10 :: [] ∧
    (small [0x06, 0x03]).accept (.request 6 0x10) = none ∧
    ({ State.reset with repeating := some (.ldir .W .ixIy) } : State).repeating =
      some (.ldir .W .ixIy) ∧
    ({ State.reset with repeating := some (.lddr .B .deHl) } : State).repeating =
      some (.lddr .B .deHl) ∧
    ({ State.reset with repeating := some (.cpir .B 3) } : State).repeating =
      some (.cpir .B 3) ∧
    ({ State.reset with repeating := some (.cpdr .W 1) } : State).repeating =
      some (.cpdr .W 1) := ⟨rfl, rfl, rfl, rfl, rfl, rfl, rfl, rfl, rfl, rfl⟩

theorem witness_HaltedCoreExecutesNothing :
    ({ State.reset with halted := true } : State).halted = true ∧ State.reset.offers = [] ∧
    ({ State.reset with halted := true, offers := [.idle] } : State).offers = [.idle] ∧
    ({ State.reset with halted := true, offers := [.request 6 0x10] } : State).offers =
      [.request 6 0x10] ∧ (6 : BitVec 3).toNat < State.reset.iff.toNat ∧
    (0 : BitVec 3).toNat = 0 := by decide +kernel

theorem witness_EnabledRequestIsTaken :
    let s : State := { State.reset with offers := [.request 7 0x10] }
    let t : State := { State.reset with iff := 0, offers := [.request 0 0x10] }
    Memory.wf s.mem = true ∧ s.offers = [.request 7 0x10] ∧
    (1 ≤ (7 : BitVec 3).toNat ∧ s.iff.toNat ≤ (7 : BitVec 3).toNat) ∧
    Memory.wf t.mem = true ∧ t.offers = [.request 0 0x10] ∧
    ¬ (1 ≤ (0 : BitVec 3).toNat ∧ t.iff.toNat ≤ (0 : BitVec 3).toNat) := by decide +kernel

theorem witness_MicroDmaTransfersOneElement :
    let s : State := { State.reset with offers := [.microDma 3 .ioToMemDec .L] }
    let t : State := { State.reset with offers := [.microDma 0 .counter .B, .idle] }
    Memory.wf s.mem = true ∧ s.offers = [.microDma 3 .ioToMemDec .L] ∧
    (2 : BitVec 2) ≠ 3 ∧ ¬ cellOf (s.dmad.get 3 + 4) = cellOf (s.dmad.get 3) ∧
    Memory.wf t.mem = true ∧ t.offers = .microDma 0 .counter .B :: [.idle] := by decide +kernel

theorem witness_ResetLeavesStatedValues :
    ({ State.reset with offers := [.reset] } : State).offers = [.reset] ∧
    Memory.wf (small [0x1E, 0x00, 0x01]).mem = true ∧
    ({ small [0x1E, 0x00, 0x01] with
      offers := [.resetDuring .instruction 2] } : State).offers =
        .resetDuring .instruction 2 :: [] ∧
    Memory.wf State.reset.mem = true ∧
    ({ State.reset with offers := [.resetDuring (.entry 7 0x10) 5] } : State).offers =
      .resetDuring (.entry 7 0x10) 5 :: [] ∧
    State.reset.enabled 7 = true ∧ decode (small [0xFD]).fetchBytes = .ok (.swi 5, 1) ∧
    (small [0xFD]).halted = false ∧ (small [0xFD]).repeating = none :=
  ⟨rfl, by decide +kernel, rfl, rfl, rfl, by decide +kernel, rfl, rfl, rfl⟩

theorem witness_EveryStepKeepsInvariant :
    (small [0x04]).Inv ∧ minimum.Inv ∧
    (∃ t, step (small [0x04]) = .next t) ∧ ∃ t, step minimum = .next t :=
  ⟨⟨by decide +kernel, by decide +kernel, by decide +kernel, by decide +kernel,
      control_of (by decide +kernel)⟩,
    ⟨by decide +kernel, by decide +kernel, by decide +kernel, by decide +kernel,
      control_of (by decide +kernel)⟩,
    ⟨_, rfl⟩, ⟨_, rfl⟩⟩

theorem witness_SrFieldsWrittenOnlyByTheirInstructions :
    (∃ t, exec .min State.reset = .next t ∧ t.max ≠ State.reset.max) ∧
    (∃ t, exec (.ldf 3) State.reset = .next t ∧ t.rfp ≠ State.reset.rfp) ∧
    (∃ t, exec (.ei 0) State.reset = .next t ∧ t.iff ≠ State.reset.iff) :=
  ⟨⟨_, rfl, by decide +kernel⟩, ⟨_, rfl, by decide +kernel⟩, ⟨_, rfl, by decide +kernel⟩⟩

theorem witness_OtherCoreStateWrittenOnlyByItsInstructions :
    (∃ t, exec .exFF (withF 0xD7 State.reset) = .next t ∧
      t.fAlt ≠ (withF 0xD7 State.reset).fAlt) ∧
    (∃ t, exec (.swi 7) State.reset = .next t ∧ t.intnest ≠ State.reset.intnest) ∧
    (∃ t, exec (.ldcCr .L 0x1C (.short 7)) State.reset = .next t ∧
      t.dmad ≠ State.reset.dmad) ∧
    (∃ t, exec .halt State.reset = .next t ∧ t.halted ≠ State.reset.halted) ∧
    (∃ t, exec (.ldir .B .deHl) State.reset = .next t ∧
      t.repeating ≠ State.reset.repeating) :=
  ⟨⟨_, rfl, by decide +kernel⟩, ⟨_, rfl, by decide +kernel⟩, ⟨_, rfl, by decide +kernel⟩,
    ⟨_, rfl, by decide +kernel⟩, ⟨_, rfl, by decide +kernel⟩⟩

theorem witness_MemWriteStoresEachByte :
    Memory.wf State.reset.mem = true ∧ 3 < Size.bytes .L ∧
    (∀ k, k < 4 → State.reset.area (0xFFFFFE + BitVec.ofNat 32 k) = .ram) ∧
    (∀ k, k < 4 → ¬ cellOf 0x2 = cellOf (0xFFFFFE + BitVec.ofNat 32 k)) ∧
    withRom.area 0x7FFF = .ram ∧ withRom.area 0x8000 = .rom := by decide +kernel

theorem witness_MemReadIsLittleEndian :
    withRom.area 0x80 = .ram ∧ withRom.area 0xFFFF = .rom ∧ withRom.area 0x10000 = .empty := by
  decide +kernel

theorem witness_RegisterCodesNameTheirRegisters :
    State.reset.max = true ∧ 3 < 4 ∧ (4 ≤ 4 ∧ 4 < 13) ∧ (4 ≤ 12 ∧ 12 < 13) ∧
    Size.W ≠ .B := by decide +kernel

theorem witness_EffectiveAddressesOfTheModes :
    State.reset.shortSlot .L 7 = .next ⟨xsp, 0⟩ ∧
    minimum.max = false ∧ minimum.shortSlot .W 3 = .next ⟨xhl, 0⟩ ∧
    State.reset.max = true ∧ State.reset.codeSlot .L (0x3F#6 ++ 0#2) = .next ⟨xsp, 0⟩ ∧
    State.reset.codeSlot .L 0xE4 = .next ⟨xbc, 0⟩ ∧
    State.reset.codeSlot .B 0xE3 = .next ⟨xwa, 3⟩ ∧
    State.reset.codeSlot .W 0xEA = .next ⟨xde, 2⟩ ∧
    mapped.max = false ∧ mapped.regMap (0x3C#6 ++ 0#2) = some ⟨.fixed .xix, 0⟩ ∧
    mapped.regMap (0x1C#6 ++ 0#2) = some ⟨.abs 7 .xwa, 0⟩ ∧
    (∀ j, RegBase.abs 7 .xwa ≠ .fixed j) ∧
    mapped.codeSlot .B 0x71 = .next ⟨.bank 7 .xwa, 1⟩ ∧
    mapped.codeSlot .W 0x70 = .next ⟨.bank 7 .xwa, 0⟩ :=
  ⟨rfl, rfl, rfl, rfl, rfl, rfl, rfl, rfl, rfl, rfl, rfl, nofun, rfl, rfl⟩

/-- Widths, sizes, counts and numbers that the arithmetic statements range over. -/
theorem witness_AddFlagsFollowTheSum : 0 < 1 ∧ 0 < Size.bits .L := by decide +kernel

theorem witness_SubFlagsFollowTheDifference : 0 < 1 ∧ 0 < Size.bits .L := by decide +kernel

theorem witness_ParityCountsTheOnes : Size.B ≠ .L ∧ Size.W ≠ .L := by decide +kernel

theorem witness_ShiftsRotateAndShiftByTheirCount : 16 ≤ 16 ∧ 0 < 16 := by decide +kernel

theorem witness_DivisionGivesQuotientAndRemainder :
    Size.B ≠ .L ∧ quotient false .B 0x0064 7 = some 0x020E ∧
    quotient false .B 0x0100 1 = none ∧ quotient true .B 0xFF80 1 = some 0x0080 ∧
    quotient true .B 0xFF80 0xFF = none := by decide +kernel

theorem witness_DecimalAdjustCompletesBcd : 99 < 100 ∧ 0 < 100 := by decide +kernel

theorem witness_LoadRegisterForms :
    State.reset.shortSlot .B 7 = .next ⟨xhl, 0⟩ ∧ State.reset.shortSlot .W 7 = .next ⟨xsp, 0⟩ ∧
    State.reset.shortSlot .L 0 = .next ⟨xwa, 0⟩ ∧
    State.reset.regSlot .L (.short 0) = .next ⟨xwa, 0⟩ ∧
    State.reset.regSlot .B (.ext 0x3F) = .next ⟨.bank 3 .xhl, 3⟩ ∧
    minimum.regSlot .W (.short 0) = .next ⟨xwa, 0⟩ := ⟨rfl, rfl, rfl, rfl, rfl, rfl⟩

theorem witness_ExtendMirrorAndEvenForms :
    State.reset.regSlot .W (.ext 0xD2) = .next ⟨.bank 3 .xwa, 2⟩ ∧
    State.reset.regSlot .L (.short 7) = .next ⟨xsp, 0⟩ := ⟨rfl, rfl⟩

theorem witness_ModuloCountersStayInTheirTable :
    State.reset.regSlot .W (.short 4) = .next ⟨xix, 0⟩ ∧
    (1 ≤ 15 ∧ 1 ≤ 1 ∧ (0x0001#16).toNat + 1 = 2 ^ 1) ∧
    (2 ≤ 2 ∧ (0x0002#16).toNat + 2 = 2 ^ 2) ∧ (3 ≤ 3 ∧ (0x0004#16).toNat + 4 = 2 ^ 3) ∧
    (15 ≤ 15 ∧ (0x7FFE#16).toNat + 2 = 2 ^ 15) ∧ (0x7FFC#16).toNat + 4 = 2 ^ 15 ∧
    (State.reset.slot .W ⟨xix, 0⟩).toNat % 4 = 0 := ⟨rfl, by decide +kernel⟩

theorem witness_ExchangeForms :
    State.reset.shortSlot .B 0 = .next ⟨xwa, 1⟩ ∧
    State.reset.regSlot .B (.short 0) = .next ⟨xwa, 1⟩ ∧
    State.reset.regSlot .B (.short 1) = .next ⟨xwa, 0⟩ ∧
    (Slot.mk xwa 0).off.toNat + Size.bytes .B ≤ (Slot.mk xwa 1).off.toNat ∧
    State.reset.regSlot .B (.ext 0xD0) = .next ⟨.bank 3 .xwa, 0⟩ ∧
    PReg.bank 3 .xwa ≠ xwa ∧
    Memory.wf State.reset.mem = true ∧ State.reset.shortSlot .W 7 = .next ⟨xsp, 0⟩ ∧
    State.reset.eff (.abs24 0xFFFFFF) = .next ⟨0xFFFFFF, .none⟩ :=
  ⟨rfl, rfl, rfl, by decide +kernel, rfl, by decide, rfl, rfl, rfl⟩

theorem witness_AluRegisterForms :
    State.reset.shortSlot .L 3 = .next ⟨xhl, 0⟩ ∧
    State.reset.regSlot .L (.ext 0x00) = .next ⟨.bank 0 .xwa, 0⟩ ∧ AluOp.add ≠ .cp ∧
    AluOp.cp = .cp := ⟨rfl, rfl, by decide, rfl⟩

theorem witness_AluMemoryForms :
    Memory.wf State.reset.mem = true ∧
    State.reset.eff (.preDec 0x3C .four) = .next ⟨0xFFFFFFFC, .pre ⟨xix, false⟩⟩ ∧
    State.reset.eff (.postInc 0x3F .one) = .next ⟨0x100, .post ⟨xsp, false⟩ 1⟩ ∧
    State.reset.shortSlot .L 4 = .next ⟨xix, 0⟩ ∧ State.reset.shortSlot .W 0 = .next ⟨xwa, 0⟩ ∧
    ¬ Eff.stepsReg ⟨0x100, .post ⟨xsp, false⟩ 1⟩ xwa ∧ AluOp.add ≠ .cp :=
  ⟨rfl, rfl, rfl, rfl, rfl, notSteps, by decide⟩

theorem witness_IncrementAndDecrementForms :
    State.reset.regSlot .B (.short 1) = .next ⟨xwa, 0⟩ ∧
    Memory.wf State.reset.mem = true ∧
    State.reset.eff (.disp8 7 0x80) = .next ⟨0x80, .none⟩ := ⟨rfl, rfl, rfl⟩

theorem witness_NegateComplementAndAdjustForms :
    State.reset.regSlot .W (.short 7) = .next ⟨xsp, 0⟩ ∧
    State.reset.regSlot .B (.short 1) = .next ⟨xwa, 0⟩ := ⟨rfl, rfl⟩

theorem witness_ShiftForms :
    State.reset.regSlot .L (.ext 0xFC) = .next ⟨xsp, 0⟩ ∧ Memory.wf State.reset.mem = true ∧
    State.reset.eff (.abs8 0xFF) = .next ⟨0xFF, .none⟩ := ⟨rfl, rfl, rfl⟩

theorem witness_DigitRotateForms :
    Memory.wf State.reset.mem = true ∧
    State.reset.eff (.ind 7) = .next ⟨0x100, .none⟩ ∧ ¬ Eff.stepsReg ⟨0x100, .none⟩ xwa :=
  ⟨rfl, rfl, notSteps⟩

theorem witness_CarryBitForms :
    State.reset.regSlot .B (.short 1) = .next ⟨xwa, 0⟩ ∧
    State.reset.eff (.abs16 0xFFFF) = .next ⟨0xFFFF, .none⟩ ∧ 7 < 8 ∧ ¬ 8 < 8 :=
  ⟨rfl, rfl, by decide, by decide⟩

theorem witness_BitRegisterForms :
    State.reset.regSlot .W (.short 0) = .next ⟨xwa, 0⟩ ∧ (15#4).toNat < Size.bits .W ∧
    State.reset.regSlot .B (.short 1) = .next ⟨xwa, 0⟩ ∧ (7#4).toNat < Size.bits .B ∧
    Size.bits .B ≤ (8#4).toNat := ⟨rfl, by decide, rfl, by decide, by decide⟩

theorem witness_BitMemoryForms :
    Memory.wf State.reset.mem = true ∧
    State.reset.eff (.indExt 0x3F) = .next ⟨0x100, .none⟩ ∧ 7 < 8 := ⟨rfl, rfl, by decide⟩

theorem witness_BitSearchForms :
    State.reset.regSlot .W (.short 7) = .next ⟨xsp, 0⟩ ∧
    State.reset.slot .W ⟨xsp, 0⟩ ≠ 0 ∧
    State.reset.regSlot .W (.short 0) = .next ⟨xwa, 0⟩ ∧ State.reset.slot .W ⟨xwa, 0⟩ = 0 :=
  ⟨rfl, by decide +kernel, rfl, by decide +kernel⟩

theorem witness_MultiplyForms :
    Size.B ≠ .L ∧ State.reset.shortDouble .B 7 = .next ⟨xhl, 0⟩ ∧
    State.reset.regSlot .B (.short 6) = .next ⟨xhl, 1⟩ ∧
    Size.W ≠ .L ∧ State.reset.regDouble .W (.ext 0xF0) = .next ⟨xix, 0⟩ ∧
    State.reset.shortDouble .W 7 = .next ⟨xsp, 0⟩ ∧
    State.reset.eff (.index8 0xFC 0xE0) = .next ⟨0x100, .none⟩ ∧
    ¬ Eff.stepsReg ⟨0x100, .none⟩ xsp := ⟨by decide, rfl, rfl, by decide, rfl, rfl, rfl, notSteps⟩

theorem witness_DivideForms :
    Size.B ≠ .L ∧ State.reset.shortDouble .B 1 = .next ⟨xwa, 0⟩ ∧
    State.reset.regSlot .B (.short 3) = .next ⟨xbc, 0⟩ ∧
    State.reset.regDouble .B (.short 1) = .next ⟨xwa, 0⟩ ∧
    State.reset.eff (.abs24 0xFFFFFF) = .next ⟨0xFFFFFF, .none⟩ ∧
    ¬ Eff.stepsReg ⟨0xFFFFFF, .none⟩ xwa ∧
    quotient false .B (State.reset.slot .W ⟨xwa, 0⟩) 1 = some 0 ∧
    quotient false .B (State.reset.slot .W ⟨xwa, 0⟩) 0 = none :=
  ⟨by decide, rfl, rfl, rfl, rfl, notSteps, by decide +kernel, by decide +kernel⟩

theorem witness_MultiplyAddForm :
    State.reset.max = true ∧ State.reset.regSlot .L (.short 4) = .next ⟨xix, 0⟩ ∧
    xix ≠ (State.reset.curSlot .xhl).reg ∧
    State.reset.regSlot .L (.short 3) = .next ⟨xhl, 0⟩ ∧
    xhl = (State.reset.curSlot .xhl).reg := ⟨rfl, rfl, by decide +kernel, rfl, rfl⟩

theorem witness_LoadFromMemoryForm :
    State.reset.shortSlot .L 4 = .next ⟨xix, 0⟩ ∧
    State.reset.eff (.postInc 0x3F .four) = .next ⟨0x100, .post ⟨xsp, false⟩ 4⟩ ∧
    ¬ Eff.stepsReg ⟨0x100, .post ⟨xsp, false⟩ 4⟩ xix ∧
    minimum.shortSlot .W 0 = .next ⟨xwa, 0⟩ ∧
    minimum.eff (.ind 0) = .next ⟨0, .none⟩ := ⟨rfl, rfl, notSteps, rfl, rfl⟩

theorem witness_StoreForms :
    Memory.wf State.reset.mem = true ∧ State.reset.product.ldxAvailable = true ∧
    State.reset.eff (.preDec 0x3F .two) = .next ⟨0xFE, .pre ⟨xsp, false⟩⟩ ∧
    State.reset.shortSlot .B 7 = .next ⟨xhl, 0⟩ ∧ State.reset.shortSlot .W 7 = .next ⟨xsp, 0⟩ ∧
    State.reset.shortSlot .L 7 = .next ⟨xsp, 0⟩ := ⟨rfl, rfl, rfl, rfl, rfl, rfl⟩

theorem witness_LoadAddressForms :
    State.reset.eff (.ind 7) = .next ⟨0x100, .none⟩ ∧
    stepping.eff (.preDec 0x3F .two) = .next ⟨0xFE, .pre ⟨xsp, false⟩⟩ ∧
    stepping.product.bareStep = .free ∧
    stepping.shortSlot .W 4 = .next ⟨xix, 0⟩ ∧ stepping.shortSlot .L 4 = .next ⟨xix, 0⟩ ∧
    ¬ Eff.stepsReg ⟨0xFE, .pre ⟨xsp, false⟩⟩ xix := ⟨rfl, rfl, rfl, rfl, rfl, notSteps⟩

theorem witness_PushForms :
    Memory.wf State.reset.mem = true ∧ State.reset.shortSlot .W 0 = .next ⟨xwa, 0⟩ ∧
    xwa ≠ xsp ∧ State.reset.shortSlot .L 7 = .next ⟨xsp, 0⟩ ∧
    State.reset.regSlot .B (.ext 0xFC) = .next ⟨xsp, 0⟩ ∧
    State.reset.eff (.postInc 0x3C .two) = .next ⟨0, .post ⟨xix, false⟩ 2⟩ ∧
    ¬ Eff.stepsReg ⟨0, .post ⟨xix, false⟩ 2⟩ xsp ∧
    State.reset.eff (.postInc 0x3F .two) = .next ⟨0x100, .post ⟨xsp, false⟩ 2⟩ ∧
    Eff.stepsReg ⟨0x100, .post ⟨xsp, false⟩ 2⟩ xsp :=
  ⟨rfl, rfl, by decide, rfl, rfl, rfl, notSteps, rfl, _, rfl, rfl⟩

theorem witness_PopForms :
    Memory.wf State.reset.mem = true ∧ State.reset.shortSlot .W 0 = .next ⟨xwa, 0⟩ ∧
    xwa ≠ xsp ∧ State.reset.shortSlot .L 7 = .next ⟨xsp, 0⟩ ∧
    State.reset.regSlot .B (.short 0) = .next ⟨xwa, 1⟩ ∧
    State.reset.eff (.preDec 0x3C .one) = .next ⟨0xFFFFFFFF, .pre ⟨xix, false⟩⟩ ∧
    ¬ Eff.stepsReg ⟨0xFFFFFFFF, .pre ⟨xix, false⟩⟩ xsp ∧
    State.reset.eff (.preDec 0x3F .one) = .next ⟨0xFF, .pre ⟨xsp, false⟩⟩ ∧
    Eff.stepsReg ⟨0xFF, .pre ⟨xsp, false⟩⟩ xsp :=
  ⟨rfl, rfl, by decide, rfl, rfl, rfl, notSteps, rfl, _, rfl, rfl⟩

theorem witness_LinkAndUnlinkForms :
    Memory.wf State.reset.mem = true ∧ State.reset.regSlot .L (.short 6) = .next ⟨xiz, 0⟩ ∧
    xiz ≠ xsp ∧ State.reset.regSlot .L (.short 7) = .next ⟨xsp, 0⟩ :=
  ⟨rfl, rfl, by decide, rfl⟩

theorem witness_BlockLoadForms :
    Memory.wf State.reset.mem = true ∧ State.reset.regBC ≠ 1 ∧
    Memory.wf (State.reset.setRegBC 1).mem = true ∧ (State.reset.setRegBC 1).regBC = 1 ∧
    Memory.wf minimum.mem = true ∧ (minimum.shortAddrReg 2).narrow = true ∧
    (minimum.shortAddrReg 4).narrow = false := by
  decide +kernel

theorem witness_BlockCompareForms :
    Size.B ≠ .L ∧ (0 : BitVec 3) ≠ 1 ∧ (minimum.shortAddrReg 0).narrow = true ∧
    (minimum.shortAddrReg 1).narrow = true ∧ (State.reset.shortAddrReg 1).narrow = false ∧
    (subFlags (State.reset.slot .B ⟨xwa, 0⟩) (State.reset.memRead .B 0) false false false).2.z =
      true ∧
    (subFlags ((State.reset.setReg xwa 5).slot .B ⟨xwa, 0⟩) (State.reset.memRead .B 0) false false
      false).2.z = false := by decide +kernel

theorem witness_JumpForms :
    State.reset.f.holds .t = true ∧ State.reset.f.holds .f = false ∧
    State.reset.eff (.ind 7) = .next ⟨0x100, .none⟩ ∧
    stepping.eff (.postInc 0x3C .two) = .next ⟨0, .post ⟨xix, false⟩ 2⟩ ∧
    stepping.product.bareStep = .free ∧
    State.reset.regSlot .B (.short 2) = .next ⟨xbc, 1⟩ ∧
    State.reset.slot .B ⟨xbc, 1⟩ ≠ 1 := ⟨rfl, rfl, rfl, rfl, rfl, rfl, by decide +kernel⟩

theorem witness_CallAndReturnForms :
    Memory.wf State.reset.mem = true ∧ State.reset.f.holds .t = true ∧
    State.reset.f.holds .f = false ∧ State.reset.eff (.ind 7) = .next ⟨0x100, .none⟩ ∧
    ¬ Eff.stepsReg ⟨0x100, .none⟩ xsp ∧ Memory.wf stepping.mem = true ∧
    stepping.eff (.preDec 0x3F .two) = .next ⟨0xFE, .pre ⟨xsp, false⟩⟩ ∧
    Eff.stepsReg ⟨0xFE, .pre ⟨xsp, false⟩⟩ xsp ∧
    stepping.eff (.postInc 0x3C .two) = .next ⟨0, .post ⟨xix, false⟩ 2⟩ ∧
    ¬ Eff.stepsReg ⟨0, .post ⟨xix, false⟩ 2⟩ xsp ∧ stepping.f.holds .t = true ∧
    stepping.product.bareStep = .free :=
  ⟨rfl, rfl, rfl, rfl, notSteps, rfl, rfl, ⟨_, rfl, rfl⟩, rfl, notSteps, rfl, rfl⟩

theorem witness_ControlRegisterLoads :
    let codes := State.reset.product.crMap.codes
    codes.lookup 0x00 = some (.dmas 0) ∧ State.reset.crWidth (.dmas 0) = .L ∧
    State.reset.regSlot .L (.short 0) = .next ⟨xwa, 0⟩ ∧
    codes.lookup 0x3C = some .intnest ∧ State.reset.crWidth .intnest = .W ∧
    State.reset.regSlot .W (.short 0) = .next ⟨xwa, 0⟩ ∧
    codes.lookup 0x2E = some (.dmam 3) ∧ State.reset.crWidth (.dmam 3) = .B ∧
    State.reset.regSlot .B (.short 1) = .next ⟨xwa, 0⟩ :=
  ⟨rfl, rfl, rfl, rfl, rfl, rfl, rfl, rfl, rfl⟩

theorem witness_MinimumModeEntry :
    State.reset.product.minModeAvailable = true ∧ State.reset.max = true ∧
    minimum.product.minModeAvailable = true ∧ minimum.max = false := by decide +kernel

theorem witness_StatusRegisterIsRestored :
    (State.reset.memRead .W State.reset.xsp).getLsbD 11 = false ∧
    State.reset.product.minModeAvailable = true ∧
    ((minimum.setByte 0x101 0x88).memRead .W minimum.xsp).getLsbD 11 = true ∧
    minimum.max = false ∧
    ((State.reset.setByte 0x101 0xF8).memRead .W State.reset.xsp).getLsbD 11 =
      State.reset.max := by decide +kernel

theorem witness_SwiTakesItsVector :
    Memory.wf State.reset.mem = true ∧ Memory.wf minimum.mem = true := by decide +kernel

theorem witness_ReturnFromEntryRestoresThePast :
    State.reset.Inv ∧ minimum.Inv ∧ (∀ a, State.reset.area a = .ram) ∧
    (∀ a, minimum.area a = .ram) ∧
    (∀ k, k < 6 → ¬ cellOf 0x100 = cellOf (0xFA + BitVec.ofNat 32 k)) ∧
    State.reset.iff = 7 ∧ (State.reset.enterInterrupt 1 0).iff = 2 :=
  ⟨⟨by decide +kernel, by decide +kernel, by decide +kernel, by decide +kernel,
      control_of (by decide +kernel)⟩,
    ⟨by decide +kernel, by decide +kernel, by decide +kernel, by decide +kernel,
      control_of (by decide +kernel)⟩,
    fun _ => rfl, fun _ => rfl, by decide +kernel, rfl, rfl⟩

theorem witness_NamedStops :
    let bare : State := { State.reset with
      product := { resetProduct with minModeAvailable := false, ldxAvailable := false } }
    State.reset.max = true ∧ (0x40 ≤ (0x40#8).toNat ∧ (0x40#8).toNat < 0xD0) ∧
    (0x40 ≤ (0xCF#8).toNat ∧ (0xCF#8).toNat < 0xD0) ∧
    minimum.max = false ∧ (3#3).toNat < 4 ∧
    bare.product.minModeAvailable = false ∧ (bare.memRead .W bare.xsp).getLsbD 11 = false ∧
    bare.product.ldxAvailable = false ∧ bare.product.crMap.codes.lookup 0x01 = none ∧
    bare.product.crMap.codes.lookup 0x22 = some (.dmam 0) ∧ bare.crWidth (.dmam 0) ≠ .W ∧
    (0x10 ≤ (0x10#6).toNat ∧ (0x33#6).toNat < 0x34) ∧
    State.reset.product.crMap.codes.lookup 0x22 = some (.dmam 0) ∧
    State.reset.crWidth (.dmam 0) = .B ∧
    Stepping.pre ⟨xsp, false⟩ ≠ .none := by decide +kernel

theorem witness_NamedStops_of_steps :
    State.reset.product.bareStep = .refused ∧
    State.reset.eff (.preDec 0x3F .two) = .next ⟨0xFE, .pre ⟨xsp, false⟩⟩ ∧
    State.reset.shortSlot .W 4 = .next ⟨xix, 0⟩ ∧
    State.reset.shortSlot .L 4 = .next ⟨xix, 0⟩ := ⟨rfl, rfl, rfl, rfl⟩

end Sys2Proof.Tests
end

section
/-!
SUPPORT. An ordinary effect: what the instructions do that write none of the registers that
control the machine. Of every instruction but sixteen this is all that the invariant needs.
-/

namespace Sys2Proof.Machine

/-- From `s` to `t` no control of the machine changes: the mode, the bank number, the mask, F',
the control registers, the halted flag, the block instruction under way, the offers and the
product. Memory stays canonical, and the pc is the old one or a pc value of the mode. It says
nothing of the registers and of F. -/
structure State.Ordinary (s t : State) : Prop where
  kept : s.Kept t (fun _ => True) (fun _ => True)
  memory : Memory.wf s.mem = true → Memory.wf t.mem = true
  pc : t.pc = s.pc ∨ ∃ a, t.pc = s.pcOf a

theorem pcOf_congr {s t : State} (h : t.max = s.max) (a : Word32) : t.pcOf a = s.pcOf a := by
  simp only [State.pcOf, h]

/-! ## Ordinary effects in sequence -/

namespace State.Ordinary

variable {s t u : State} {sz : Size}

theorem refl : s.Ordinary s := ⟨State.Kept.refl s, id, .inl rfl⟩

theorem trans (h : s.Ordinary t) (k : t.Ordinary u) : s.Ordinary u where
  kept := h.kept.trans k.kept
  memory hm := k.memory (h.memory hm)
  pc := by
    rcases k.pc with hk | ⟨a, hk⟩
    · rw [hk]
      exact h.pc
    · exact .inr ⟨a, by rw [hk, pcOf_congr h.kept.max]⟩

/-- What touches neither memory nor the pc. -/
theorem of_kept {regs : PReg → Prop} {bytes : Word32 → Prop} (k : s.Kept t regs bytes)
    (hm : t.mem = s.mem) (hp : t.pc = s.pc) : s.Ordinary t :=
  ⟨k.mono (fun _ _ => trivial) fun _ _ => trivial, fun h => hm ▸ h, .inl hp⟩

theorem setSlot {d : Slot} {v : BitVec sz.bits} (h : s.Ordinary t) :
    s.Ordinary (t.setSlot sz d v) :=
  h.trans (of_kept (kept_setSlot _ _ _ _) (by simp) (by simp))

theorem stepAddrReg {r : AddrReg} {d : Word32} (h : s.Ordinary t) :
    s.Ordinary (t.stepAddrReg r d) :=
  h.trans (of_kept (kept_stepAddrReg _ _ _) (by simp) (by simp))

theorem withXsp {v : Word32} (h : s.Ordinary t) : s.Ordinary { t with xsp := v } :=
  h.trans (of_kept (kept_withXsp _ _) rfl rfl)

theorem withFlags {g : Flags} (h : s.Ordinary t) : s.Ordinary { t with f := g } :=
  h.trans (of_kept (regs := noReg) (bytes := nowhere) (kept_withFlags _ _) rfl rfl)

theorem drawn {n : Nat} (h : s.Ordinary t) : s.Ordinary (t.drawn n) :=
  h.trans (of_kept (regs := noReg) (bytes := nowhere) (kept_drawn _ _) rfl rfl)

theorem preStep {e : Eff} (h : s.Ordinary t) : s.Ordinary (t.preStep e) :=
  h.trans (of_kept (kept_preStep _ _) (by simp) (by simp))

theorem postStep {e : Eff} (h : s.Ordinary t) : s.Ordinary (t.postStep e) :=
  h.trans (of_kept (kept_postStep _ _) (by simp) (by simp))

theorem setSlotAndStep {e : Eff} {d : Slot} {v : BitVec sz.bits} (h : s.Ordinary t) :
    s.Ordinary (t.setSlotAndStep e sz d v) :=
  h.trans (of_kept (kept_setSlotAndStep _ _ _ _ _) (by simp) (by simp))

theorem memWrite {a : Word32} {v : BitVec sz.bits} (h : s.Ordinary t) :
    s.Ordinary (t.memWrite sz a v) :=
  h.trans ⟨(kept_memWrite t sz a v).mono (fun _ _ => trivial) fun _ _ => trivial,
    memWrite_wf t sz a v, .inl (by simp)⟩

theorem setByte {a : Word32} {v : Byte} (h : s.Ordinary t) : s.Ordinary (t.setByte a v) :=
  h.memWrite (sz := .B)

theorem push {v : BitVec sz.bits} (h : s.Ordinary t) : s.Ordinary (t.push sz v) :=
  h.withXsp.memWrite

theorem popped (h : s.Ordinary t) : s.Ordinary (t.popped sz) := h.withXsp

theorem jump {a : Word32} (h : s.Ordinary t) : s.Ordinary (t.jump a) :=
  h.trans ⟨kept_jump t a, id, .inr ⟨a, rfl⟩⟩

theorem pushPc (h : s.Ordinary t) : s.Ordinary t.pushPc := h.push

theorem popPc (h : s.Ordinary t) : s.Ordinary t.popPc := h.popped.jump

theorem ite {c : Prop} [Decidable c] (h : s.Ordinary t) (k : s.Ordinary u) :
    s.Ordinary (if c then t else u) := by
  split
  · exact h
  · exact k

theorem pushSlot {a : Slot} (h : s.Ordinary t) : s.Ordinary (t.pushSlot sz a) :=
  .ite h.push.drawn h.push

theorem popSlot {a : Slot} (h : s.Ordinary t) : s.Ordinary (t.popSlot sz a) :=
  .ite (.drawn (.ite h.popped.setSlot h.popped)) h.popped.setSlot

theorem aluSlot {op : AluOp} {d : Slot} {b : BitVec sz.bits} (h : s.Ordinary t) :
    s.Ordinary (t.aluSlot op sz d b) :=
  .drawn (.withFlags (.ite h h.setSlot))

theorem aluMem {op : AluOp} {e : Eff} {b : BitVec sz.bits} (h : s.Ordinary t) :
    s.Ordinary (t.aluMem op sz e b) :=
  .postStep (.drawn (.withFlags (.ite h h.memWrite)))

theorem carryFrom {op : CarryOp} {num w : Nat} {v : BitVec w} (h : s.Ordinary t) :
    s.Ordinary (t.carryFrom op num v) :=
  (h.drawn (n := 1)).withFlags

theorem testFlags {b : Bool} (h : s.Ordinary t) : s.Ordinary (t.testFlags b) :=
  (h.drawn (n := 2)).withFlags

theorem setRegA {v : BitVec 8} (h : s.Ordinary t) : s.Ordinary (t.setRegA v) :=
  h.setSlot (sz := .B)

theorem countDown (h : s.Ordinary t) : s.Ordinary t.countDown :=
  h.setSlot (sz := .W) (d := t.curSlot .xbc) (v := t.regBC - 1)

theorem blockElement {p : BlockPair} {d : Word32} (h : s.Ordinary t) :
    s.Ordinary (t.blockElement sz p d) :=
  h.memWrite.stepAddrReg.stepAddrReg.countDown

theorem compareElement {R : BitVec 3} {d : Word32} (h : s.Ordinary t) :
    s.Ordinary (t.compareElement R d) :=
  h.stepAddrReg.countDown

theorem addressOnly {e : Eff} {k : State → State} (hk : ∀ u, s.Ordinary u → s.Ordinary (k u))
    (h : s.Ordinary t) : s.Ordinary (t.addressOnly e k) := by
  unfold State.addressOnly
  split
  · exact .ite (.postStep (hk _ h.drawn.preStep)) (hk _ h.drawn)
  · exact hk _ h

end State.Ordinary

/-! ## The shared meanings -/

section

variable {s t : State} {sz : Size} {dst src : Out Slot} {m : MemOp}

theorem loadReg_ordinary {v : BitVec sz.bits} (h : loadReg sz dst v s = .next t) :
    s.Ordinary t := by
  obtain ⟨d, -, h⟩ := andThen_eq_next h
  cases h
  exact .setSlot .refl

theorem copyReg_ordinary (h : copyReg sz dst src s = .next t) : s.Ordinary t := by
  obtain ⟨d, -, h⟩ := andThen_eq_next h
  obtain ⟨a, -, h⟩ := andThen_eq_next h
  cases h
  exact .setSlot .refl

theorem updateReg_ordinary {g : BitVec sz.bits → BitVec sz.bits}
    (h : updateReg sz dst g s = .next t) : s.Ordinary t := by
  obtain ⟨d, -, h⟩ := andThen_eq_next h
  cases h
  exact .setSlot .refl

theorem loadMem_ordinary (h : loadMem sz dst m s = .next t) : s.Ordinary t := by
  obtain ⟨d, -, h⟩ := andThen_eq_next h
  obtain ⟨e, -, h⟩ := withMem_eq_next h
  cases h
  exact .setSlotAndStep (.preStep .refl)

theorem storeValue_ordinary {v : State → BitVec sz.bits} (h : storeValue sz m v s = .next t) :
    s.Ordinary t := by
  obtain ⟨e, -, h⟩ := withMem_eq_next h
  cases h
  exact .postStep (.memWrite (.preStep .refl))

theorem storeReg_ordinary (h : storeReg sz m src s = .next t) : s.Ordinary t := by
  obtain ⟨a, -, h⟩ := andThen_eq_next h
  exact storeValue_ordinary h

theorem copyToAbs_ordinary {a : BitVec 16} (h : copyToAbs sz a m s = .next t) :
    s.Ordinary t := by
  obtain ⟨e, -, h⟩ := withMem_eq_next h
  cases h
  exact .postStep (.memWrite (.preStep .refl))

theorem pushReg_ordinary (h : pushReg sz src s = .next t) : s.Ordinary t := by
  obtain ⟨a, -, h⟩ := andThen_eq_next h
  cases h
  exact .pushSlot .refl

theorem popReg_ordinary (h : popReg sz dst s = .next t) : s.Ordinary t := by
  obtain ⟨d, -, h⟩ := andThen_eq_next h
  cases h
  exact .popSlot .refl

theorem pushMem_ordinary (h : pushMem sz m s = .next t) : s.Ordinary t := by
  obtain ⟨e, -, h⟩ := withMem_eq_next h
  cases h
  exact .postStep (.push (.preStep .refl))

theorem popMem_ordinary (h : popMem sz m s = .next t) : s.Ordinary t := by
  obtain ⟨e, -, h⟩ := withMem_eq_next h
  cases h
  exact .postStep (.memWrite (.popped (.preStep .refl)))

theorem loadAddress_ordinary {R : BitVec 3} (h : loadAddress sz R m s = .next t) :
    s.Ordinary t := by
  obtain ⟨d, -, h⟩ := andThen_eq_next h
  obtain ⟨e, -, h⟩ := andThen_eq_next h
  split at h
  · cases h
    exact .setSlot .refl
  · split at h
    · cases h
      exact .setSlotAndStep (.preStep (.drawn .refl))
    · cases h
      exact .setSlot (.drawn .refl)

theorem aluReg_ordinary {op : AluOp} (h : aluReg op sz dst src s = .next t) : s.Ordinary t := by
  obtain ⟨d, -, h⟩ := andThen_eq_next h
  obtain ⟨a, -, h⟩ := andThen_eq_next h
  cases h
  exact .aluSlot .refl

theorem aluImm_ordinary {op : AluOp} {v : BitVec sz.bits} (h : aluImm op sz dst v s = .next t) :
    s.Ordinary t := by
  obtain ⟨d, -, h⟩ := andThen_eq_next h
  cases h
  exact .aluSlot .refl

theorem aluRegMem_ordinary {op : AluOp} (h : aluRegMem op sz dst m s = .next t) :
    s.Ordinary t := by
  obtain ⟨d, -, h⟩ := andThen_eq_next h
  obtain ⟨e, -, h⟩ := withMem_eq_next h
  cases h
  have hu : ∀ g, s.Ordinary ({ s.preStep e with f := g }.drawn 1) :=
    fun _ => .drawn (.withFlags (.preStep .refl))
  exact .ite (hu _).postStep (hu _).setSlotAndStep

theorem aluMemReg_ordinary {op : AluOp} (h : aluMemReg op sz m src s = .next t) :
    s.Ordinary t := by
  obtain ⟨a, -, h⟩ := andThen_eq_next h
  obtain ⟨e, -, h⟩ := withMem_eq_next h
  cases h
  exact .aluMem (.preStep .refl)

theorem aluMemImm_ordinary {op : AluOp} {v : BitVec sz.bits}
    (h : aluMemImm op sz m v s = .next t) : s.Ordinary t := by
  obtain ⟨e, -, h⟩ := withMem_eq_next h
  cases h
  exact .aluMem (.preStep .refl)

theorem countReg_ordinary {op : AluOp} {n : BitVec 3} (h : countReg op sz n dst s = .next t) :
    s.Ordinary t := by
  obtain ⟨d, -, h⟩ := andThen_eq_next h
  cases h
  exact .ite (.withFlags (.setSlot .refl)) (.setSlot .refl)

theorem countMem_ordinary {op : AluOp} {n : BitVec 3} (h : countMem op sz n m s = .next t) :
    s.Ordinary t := by
  obtain ⟨e, -, h⟩ := withMem_eq_next h
  cases h
  exact .postStep (.withFlags (.memWrite (.preStep .refl)))

theorem negate_ordinary (h : negate sz dst s = .next t) : s.Ordinary t := by
  obtain ⟨d, -, h⟩ := andThen_eq_next h
  cases h
  exact .withFlags (.setSlot .refl)

theorem complement_ordinary (h : complement sz dst s = .next t) : s.Ordinary t := by
  obtain ⟨d, -, h⟩ := andThen_eq_next h
  cases h
  exact .withFlags (.setSlot .refl)

theorem adjustReg_ordinary (h : adjustReg dst s = .next t) : s.Ordinary t := by
  obtain ⟨d, -, h⟩ := andThen_eq_next h
  cases h
  exact .withFlags (.setSlot .refl)

theorem multiplyReg_ordinary {g : Bool} (h : multiplyReg g sz dst src s = .next t) :
    s.Ordinary t := by
  obtain ⟨d, -, h⟩ := andThen_eq_next h
  obtain ⟨a, -, h⟩ := andThen_eq_next h
  cases h
  exact .setSlot .refl

theorem multiplyImm_ordinary {g : Bool} {v : BitVec sz.bits}
    (h : multiplyImm g sz dst v s = .next t) : s.Ordinary t := by
  obtain ⟨d, -, h⟩ := andThen_eq_next h
  cases h
  exact .setSlot .refl

theorem multiplyMem_ordinary {g : Bool} (h : multiplyMem g sz dst m s = .next t) :
    s.Ordinary t := by
  obtain ⟨d, -, h⟩ := andThen_eq_next h
  obtain ⟨e, -, h⟩ := withMem_eq_next h
  cases h
  exact .setSlotAndStep (.preStep .refl)

theorem divideReg_ordinary {g : Bool} (h : divideReg g sz dst src s = .next t) :
    s.Ordinary t := by
  obtain ⟨d, -, h⟩ := andThen_eq_next h
  obtain ⟨a, -, h⟩ := andThen_eq_next h
  cases h
  exact .drawn (.withFlags (.setSlot .refl))

theorem divideImm_ordinary {g : Bool} {v : BitVec sz.bits}
    (h : divideImm g sz dst v s = .next t) : s.Ordinary t := by
  obtain ⟨d, -, h⟩ := andThen_eq_next h
  cases h
  exact .drawn (.withFlags (.setSlot .refl))

theorem divideMem_ordinary {g : Bool} (h : divideMem g sz dst m s = .next t) :
    s.Ordinary t := by
  obtain ⟨d, -, h⟩ := andThen_eq_next h
  obtain ⟨e, -, h⟩ := withMem_eq_next h
  cases h
  exact .setSlotAndStep (.drawn (.withFlags (.preStep .refl)))

theorem multiplyAdd_ordinary (h : multiplyAdd dst s = .next t) : s.Ordinary t := by
  unfold multiplyAdd at h
  split at h
  · cases h
  · obtain ⟨d, -, h⟩ := andThen_eq_next h
    cases h
    exact .withFlags (.drawn (.ite (.setSlot .refl) (.setSlot (.setSlot .refl))))

theorem carryReg_ordinary {op : CarryOp} {n : Nat} (h : carryReg op sz n src s = .next t) :
    s.Ordinary t := by
  obtain ⟨a, -, h⟩ := andThen_eq_next h
  cases h
  exact .carryFrom .refl

theorem carryMem_ordinary {op : CarryOp} {n : State → Nat} (h : carryMem op n m s = .next t) :
    s.Ordinary t := by
  obtain ⟨e, -, h⟩ := withMem_eq_next h
  cases h
  exact .postStep (.carryFrom (.preStep .refl))

theorem updateMem_ordinary {g : State → Byte → Byte} (h : updateMem m g s = .next t) :
    s.Ordinary t := by
  obtain ⟨e, -, h⟩ := withMem_eq_next h
  cases h
  exact .postStep (.setByte (.preStep .refl))

theorem testReg_ordinary {n : Nat} (h : testReg sz n src s = .next t) : s.Ordinary t := by
  obtain ⟨a, -, h⟩ := andThen_eq_next h
  cases h
  exact .testFlags .refl

theorem testMem_ordinary {n : Nat} (h : testMem n m s = .next t) : s.Ordinary t := by
  obtain ⟨e, -, h⟩ := withMem_eq_next h
  cases h
  exact .postStep (.testFlags (.preStep .refl))

theorem testSetReg_ordinary {n : Nat} (h : testSetReg sz n dst s = .next t) : s.Ordinary t := by
  obtain ⟨d, -, h⟩ := andThen_eq_next h
  cases h
  exact .setSlot (.testFlags .refl)

theorem testSetMem_ordinary {n : Nat} (h : testSetMem n m s = .next t) : s.Ordinary t := by
  obtain ⟨e, -, h⟩ := withMem_eq_next h
  cases h
  exact .postStep (.setByte (.testFlags (.preStep .refl)))

theorem setCarryFreeH_ordinary (c : Bool) (s : State) : s.Ordinary (setCarryFreeH c s) :=
  .withFlags (.drawn (n := 1) .refl)

theorem bitSearch_ordinary {find : BitVec 16 → Option Nat} (h : bitSearch find src s = .next t) :
    s.Ordinary t := by
  obtain ⟨a, -, h⟩ := andThen_eq_next h
  split at h
  · cases h
    exact .setSlot (.withFlags .refl)
  · cases h
    exact .drawn (.setSlot (.withFlags .refl))

theorem shiftReg_ordinary {op : ShiftOp} {c : BitVec 4} (h : shiftReg op sz c dst s = .next t) :
    s.Ordinary t := by
  obtain ⟨d, -, h⟩ := andThen_eq_next h
  cases h
  exact .drawn (.withFlags (.setSlot .refl))

theorem shiftMem_ordinary {op : ShiftOp} (h : shiftMem op sz m s = .next t) : s.Ordinary t := by
  obtain ⟨e, -, h⟩ := withMem_eq_next h
  cases h
  exact .postStep (.drawn (.withFlags (.memWrite (.preStep .refl))))

theorem rotateDigits_ordinary {g : BitVec 8 → Byte → BitVec 8 × Byte}
    (h : rotateDigits g m s = .next t) : s.Ordinary t := by
  obtain ⟨e, -, h⟩ := withMem_eq_next h
  cases h
  exact .setSlotAndStep (.withFlags (.setByte (.preStep .refl)))

theorem blockLoad_ordinary (sz : Size) (p : BlockPair) (d : Word32) (s : State) :
    s.Ordinary (blockLoad sz p d s) :=
  .withFlags (.blockElement .refl)

theorem blockCompare_ordinary (sz : Size) (R : BitVec 3) (d : Word32) (s : State) :
    s.Ordinary (blockCompare sz R d s) :=
  .withFlags (.compareElement .refl)

theorem storeControl_ordinary {cr : BitVec 8} (h : storeControl sz dst cr s = .next t) :
    s.Ordinary t := by
  obtain ⟨c, -, h⟩ := andThen_eq_next h
  obtain ⟨d, -, h⟩ := andThen_eq_next h
  cases h
  exact .setSlot .refl

theorem linkFrame_ordinary {d : BitVec 16} (h : linkFrame dst d s = .next t) :
    s.Ordinary t := by
  obtain ⟨a, -, h⟩ := andThen_eq_next h
  cases h
  exact .withXsp (.setSlot (.pushSlot .refl))

theorem unlinkFrame_ordinary (h : unlinkFrame dst s = .next t) : s.Ordinary t := by
  obtain ⟨a, -, h⟩ := andThen_eq_next h
  cases h
  exact .popSlot (.withXsp .refl)

theorem exchangeRegs_ordinary (h : exchangeRegs sz dst src s = .next t) : s.Ordinary t := by
  obtain ⟨d, -, h⟩ := andThen_eq_next h
  obtain ⟨a, -, h⟩ := andThen_eq_next h
  cases h
  exact .setSlot (.setSlot .refl)

theorem exchangeMem_ordinary (h : exchangeMem sz m src s = .next t) : s.Ordinary t := by
  obtain ⟨a, -, h⟩ := andThen_eq_next h
  obtain ⟨e, -, h⟩ := withMem_eq_next h
  cases h
  exact .setSlotAndStep (.memWrite (.preStep .refl))

theorem jumpMem_ordinary {cc : Cond} (h : jumpMem cc m s = .next t) : s.Ordinary t := by
  obtain ⟨e, -, h⟩ := andThen_eq_next h
  cases h
  exact .ite (.addressOnly (fun _ hu => hu.jump) .refl) .refl

theorem callMem_ordinary {cc : Cond} (h : callMem cc m s = .next t) : s.Ordinary t := by
  obtain ⟨e, -, h⟩ := andThen_eq_next h
  cases h
  exact .ite (.addressOnly (fun _ hu => hu.pushPc.jump) .refl) .refl

theorem decrementJump_ordinary {d : BitVec 8} (h : decrementJump sz dst d s = .next t) :
    s.Ordinary t := by
  obtain ⟨a, -, h⟩ := andThen_eq_next h
  cases h
  exact .ite (.setSlot .refl) (.jump (.setSlot .refl))

theorem execLdx_ordinary {a v : BitVec 8} (h : execLdx a v s = .next t) : s.Ordinary t := by
  unfold execLdx at h
  split at h
  · cases h
    exact .memWrite .refl
  · cases h

/-- An instruction that always goes on. -/
theorem State.Ordinary.of_next {u : State} (h : s.Ordinary u)
    (hu : (.next u : Out State) = .next t) : s.Ordinary t := by
  cases hu
  exact h

end

/-! ## The instructions -/

/-- The instructions that write a control of the machine: SR outside F (10_state.md R20 to
R24), F', a control register (R29), the halted flag or the block instruction under way. -/
inductive WritesControl : Instr → Prop where
  | popSR : WritesControl .popSR
  | min : WritesControl .min
  | halt : WritesControl .halt
  | di : WritesControl .di
  | ei (n : BitVec 3) : WritesControl (.ei n)
  | reti : WritesControl .reti
  | incf : WritesControl .incf
  | decf : WritesControl .decf
  | exFF : WritesControl .exFF
  | ldf (n : BitVec 3) : WritesControl (.ldf n)
  | swi (n : BitVec 3) : WritesControl (.swi n)
  | ldcCr (sz : Size) (cr : BitVec 8) (r : RegOp) : WritesControl (.ldcCr sz cr r)
  | ldir (sz : Size) (p : BlockPair) : WritesControl (.ldir sz p)
  | lddr (sz : Size) (p : BlockPair) : WritesControl (.lddr sz p)
  | cpir (sz : Size) (R : BitVec 3) : WritesControl (.cpir sz R)
  | cpdr (sz : Size) (R : BitVec 3) : WritesControl (.cpdr sz R)

/-- Every instruction is ordinary or one of those sixteen. -/
theorem exec_ordinary {i : Instr} {s t : State} (h : exec i s = .next t) :
    WritesControl i ∨ s.Ordinary t := by
  unfold exec at h
  cases i with
  | popSR => exact .inl .popSR
  | min => exact .inl .min
  | halt => exact .inl .halt
  | di => exact .inl .di
  | ei n => exact .inl (.ei n)
  | reti => exact .inl .reti
  | incf => exact .inl .incf
  | decf => exact .inl .decf
  | exFF => exact .inl .exFF
  | ldf n => exact .inl (.ldf n)
  | swi n => exact .inl (.swi n)
  | ldcCr sz cr r => exact .inl (.ldcCr sz cr r)
  | ldir sz p => exact .inl (.ldir sz p)
  | lddr sz p => exact .inl (.lddr sz p)
  | cpir sz R => exact .inl (.cpir sz R)
  | cpdr sz R => exact .inl (.cpdr sz R)
  | nop => exact .inr (.of_next .refl h)
  | pushSR | pushI8 | pushwI16 | pushA | pushF => exact .inr (.of_next (.push .refl) h)
  | popA => exact .inr (.of_next (.setRegA (.popped .refl)) h)
  | popF => exact .inr (.of_next (.withFlags (.popped .refl)) h)
  | ldA8I8 | ldwA8I16 => exact .inr (.of_next (.memWrite .refl) h)
  | ldx => exact .inr (execLdx_ordinary h)
  | rcf | scf => exact .inr (.of_next (.withFlags .refl) h)
  | ccf | zcf => exact .inr (.of_next (setCarryFreeH_ordinary _ _) h)
  | jp16 | jp24 => exact .inr (.of_next (.jump .refl) h)
  | call16 | call24 | calr => exact .inr (.of_next (.jump (.pushPc .refl)) h)
  | jr | jrl => exact .inr (.of_next (.ite (.jump .refl) .refl) h)
  | ret => exact .inr (.of_next (.popPc .refl) h)
  | retd => exact .inr (.of_next (.withXsp (.popPc .refl)) h)
  | retcc => exact .inr (.of_next (.ite (.popPc .refl) .refl) h)
  | ldi | ldd => exact .inr (.of_next (blockLoad_ordinary _ _ _ _) h)
  | cpi | cpd => exact .inr (.of_next (blockCompare_ordinary _ _ _ _) h)
  | ldRI8 | ldRI16 | ldRI32 | ldrI | ldrN | ldar | scc => exact .inr (loadReg_ordinary h)
  | ldRr | ldrR => exact .inr (copyReg_ordinary h)
  | extz | exts | paa | mirr | minc1 | minc2 | minc4 | mdec1 | mdec2 | mdec4 | stcfNr | stcfAr
  | resNr | setNr | chgNr => exact .inr (updateReg_ordinary h)
  | ldRm => exact .inr (loadMem_ordinary h)
  | ldmI8 | ldwmI16 | ldmA16 | ldwmA16 => exact .inr (storeValue_ordinary h)
  | ldmRB | ldmRW | ldmRL => exact .inr (storeReg_ordinary h)
  | ldA16m => exact .inr (copyToAbs_ordinary h)
  | ldaW | ldaL => exact .inr (loadAddress_ordinary h)
  | pushRW | pushRL | pushr => exact .inr (pushReg_ordinary h)
  | popRW | popRL | popr => exact .inr (popReg_ordinary h)
  | pushm => exact .inr (pushMem_ordinary h)
  | popm | popwm => exact .inr (popMem_ordinary h)
  | addRr | adcRr | subRr | sbcRr | andRr | xorRr | orRr | cpRr =>
    exact .inr (aluReg_ordinary h)
  | addrI | adcrI | subrI | sbcrI | andrI | xorrI | orrI | cprI | cprN =>
    exact .inr (aluImm_ordinary h)
  | addRm | adcRm | subRm | sbcRm | andRm | xorRm | orRm | cpRm =>
    exact .inr (aluRegMem_ordinary h)
  | addmR | adcmR | submR | sbcmR | andmR | xormR | ormR | cpmR =>
    exact .inr (aluMemReg_ordinary h)
  | addmI | adcmI | submI | sbcmI | andmI | xormI | ormI | cpmI =>
    exact .inr (aluMemImm_ordinary h)
  | incNr | decNr => exact .inr (countReg_ordinary h)
  | incNm | decNm => exact .inr (countMem_ordinary h)
  | negr => exact .inr (negate_ordinary h)
  | cplr => exact .inr (complement_ordinary h)
  | daa => exact .inr (adjustReg_ordinary h)
  | mulRr | mulsRr => exact .inr (multiplyReg_ordinary h)
  | mulrrI | mulsrrI => exact .inr (multiplyImm_ordinary h)
  | mulRm | mulsRm => exact .inr (multiplyMem_ordinary h)
  | divRr | divsRr => exact .inr (divideReg_ordinary h)
  | divrrI | divsrrI => exact .inr (divideImm_ordinary h)
  | divRm | divsRm => exact .inr (divideMem_ordinary h)
  | mula => exact .inr (multiplyAdd_ordinary h)
  | andcfNr | orcfNr | xorcfNr | ldcfNr | andcfAr | orcfAr | xorcfAr | ldcfAr =>
    exact .inr (carryReg_ordinary h)
  | andcfAm | orcfAm | xorcfAm | ldcfAm | andcfNm | orcfNm | xorcfNm | ldcfNm =>
    exact .inr (carryMem_ordinary h)
  | stcfAm | stcfNm | resNm | setNm | chgNm => exact .inr (updateMem_ordinary h)
  | bitNr => exact .inr (testReg_ordinary h)
  | bitNm => exact .inr (testMem_ordinary h)
  | tsetNr => exact .inr (testSetReg_ordinary h)
  | tsetNm => exact .inr (testSetMem_ordinary h)
  | bs1f | bs1b => exact .inr (bitSearch_ordinary h)
  | rlcNr | rrcNr | rlNr | rrNr | slaNr | sraNr | sllNr | srlNr | rlcAr | rrcAr | rlAr | rrAr
  | slaAr | sraAr | sllAr | srlAr => exact .inr (shiftReg_ordinary h)
  | rlcm | rrcm | rlm | rrm | slam | sram | sllm | srlm => exact .inr (shiftMem_ordinary h)
  | rld | rrd => exact .inr (rotateDigits_ordinary h)
  | ldcR => exact .inr (storeControl_ordinary h)
  | link => exact .inr (linkFrame_ordinary h)
  | unlk => exact .inr (unlinkFrame_ordinary h)
  | exRr => exact .inr (exchangeRegs_ordinary h)
  | exmR => exact .inr (exchangeMem_ordinary h)
  | jpm => exact .inr (jumpMem_ordinary h)
  | callm => exact .inr (callMem_ordinary h)
  | djnz => exact .inr (decrementJump_ordinary h)

end Sys2Proof.Machine
end

section
/-!
The invariant of the machine: reset meets it, and every operation, instruction and step keeps it
(00_scope.md R7; 10_state.md R24, R27, R28, R30).
-/

namespace Sys2Proof.Machine

/-! ## The operations that write a control of the machine -/

/-- In maximum mode RFP2 is 0. -/
theorem rfpIn_lt {b : Bool} (h : b = true) (v : BitVec 3) : (rfpIn b v).toNat < 4 := by
  simp only [rfpIn, h, if_true, BitVec.toNat_and]
  exact Nat.lt_of_le_of_lt Nat.and_le_right (by decide)

theorem setWidth_pc_lt (v : Word32) : ((v.setWidth 16).setWidth 32 : Word32).toNat < 2 ^ 16 := by
  simp only [BitVec.toNat_setWidth]
  omega

theorem pcOf_lt {s : State} (h : s.max = false) (a : Word32) : (s.pcOf a).toNat < 2 ^ 16 := by
  simp only [State.pcOf, h, Bool.false_eq_true, if_false]
  exact setWidth_pc_lt a

theorem Four.get_all {α : Type} (x : α) (i : BitVec 2) : (Four.all x).get i = x := by
  unfold Four.get
  split <;> rfl

/-- An element of four free values is cut to its width. -/
theorem freeFour_get (s : State) (c : CReg) (i : Nat) (n : BitVec 2) :
    ∃ v, (s.freeFour c i).get n = s.crFit c v := by
  unfold Four.get
  split <;> exact ⟨_, rfl⟩

/-- The pc that a change of mode leaves: the old one, or 16 bits of it. -/
theorem changeMode_pc (s : State) (b : Bool) :
    (s.changeMode b).pc = s.pc ∧ b = s.max ∨ (s.changeMode b).pc.toNat < 2 ^ 16 := by
  unfold State.changeMode
  split
  · exact .inl ⟨rfl, ‹_›⟩
  · split <;> exact .inr (setWidth_pc_lt _)

/-- The bank number that a change to maximum mode leaves is one of that mode. -/
theorem changeMode_rfp {s : State} (h : s.Inv) : (s.changeMode true).rfp.toNat < 4 := by
  unfold State.changeMode
  split
  · exact h.bank (Eq.symm ‹true = s.max›)
  · exact rfpIn_lt rfl _

/-! ## The invariant is kept -/

namespace State.Inv

variable {s t : State}

theorem ordinary (h : s.Inv) (k : s.Ordinary t) : t.Inv where
  memory := k.memory h.memory
  bank hm := by
    rw [k.kept.rfp]
    exact h.bank (k.kept.max ▸ hm)
  counter hm := by
    have hs : s.max = false := k.kept.max ▸ hm
    rcases k.pc with hp | ⟨a, hp⟩
    · exact hp ▸ h.counter hs
    · exact hp ▸ pcOf_lt hs a
  mode hm := by
    rw [k.kept.product]
    exact h.mode (k.kept.max ▸ hm)
  control c := by
    have hc : t.creg c = s.creg c := by
      cases c <;>
        simp only [State.creg, k.kept.dmas, k.kept.dmad, k.kept.dmac, k.kept.dmam,
          k.kept.intnest]
    rw [hc, crFit_congr k.kept.product, h.control]

theorem begun (h : s.Inv) : s.begun.Inv := { h with }

theorem withOffers (h : s.Inv) (l : List Offer) : ({ s with offers := l } : State).Inv :=
  { h with }

theorem jump (h : s.Inv) (a : Word32) : (s.jump a).Inv := h.ordinary (.jump .refl)

/-- A control register is written at its width. -/
theorem setCreg (h : s.Inv) (c : CReg) (v : Word32) : (s.setCreg c v).Inv where
  memory := by simpa using h.memory
  bank := by simpa using h.bank
  counter := by simpa using h.counter
  mode := by simpa using h.mode
  control d := by
    rw [crFit_congr (setCreg_product s c v)]
    by_cases hd : d = c
    · rw [hd, creg_setCreg_same, crFit_crFit]
    · rw [creg_setCreg_other s c d v hd, h.control]

theorem setRfp (h : s.Inv) (v : BitVec 3) : (s.setRfp v).Inv :=
  { h with bank := fun hm => rfpIn_lt hm v }

/-- A change of the mode, to minimum mode only where the product has it. -/
theorem changeMode (h : s.Inv) {b : Bool}
    (hb : b = true ∨ s.product.minModeAvailable = true) : (s.changeMode b).Inv where
  memory := by simpa using h.memory
  bank hm := by
    have ht : b = true := by simpa using hm
    rw [ht]
    exact changeMode_rfp h
  counter hm := by
    rcases changeMode_pc s b with ⟨hp, hbs⟩ | hp
    · rw [hp]
      exact h.counter (by simpa [hbs] using hm)
    · exact hp
  mode hm := by
    have hf : b = false := by simpa using hm
    simpa [hf] using hb
  control c := by
    have hc : (s.changeMode b).creg c = s.creg c := by cases c <;> simp [State.creg]
    rw [hc, crFit_congr (changeMode_product s b), h.control]

theorem setSr (h : s.Inv) {v : BitVec 16} (ht : s.setSr v = .next t) : t.Inv := by
  obtain ⟨hb, rfl⟩ := setSr_eq_next ht
  exact { h.changeMode hb with
    bank := fun hm => rfpIn_lt (by simpa using hm) _ }

theorem enterException (h : s.Inv) (V : BitVec 24) : (s.enterException V).Inv :=
  (h.setCreg .intnest (s.intnest + 1)).jump _

theorem returnFromException (h : s.Inv) (ht : s.returnFromException = .next t) : t.Inv := by
  obtain ⟨u, hu, rfl⟩ := returnFromException_eq_next ht
  exact ((h.ordinary (.popPc (.popped .refl))).setSr hu).setCreg .intnest (u.intnest - 1)

theorem again (h : s.Inv) (i : Repeating) : (s.again i).Inv :=
  { h.jump (s.pc - 2) with }

theorem blockLoadRepeat (h : s.Inv) (i : Repeating) (sz : Size) (p : BlockPair) (d : Word32) :
    (blockLoadRepeat i sz p d s).Inv := by
  unfold Machine.blockLoadRepeat
  split
  · exact h.ordinary (blockLoad_ordinary sz p d s)
  · exact (h.ordinary (.blockElement .refl)).again i

theorem blockCompareRepeat (h : s.Inv) (i : Repeating) (sz : Size) (R : BitVec 3)
    (d : Word32) : (blockCompareRepeat i sz R d s).Inv := by
  unfold Machine.blockCompareRepeat
  split
  · exact h.ordinary (blockCompare_ordinary sz R d s)
  · exact (h.ordinary (.compareElement .refl)).again i

theorem loadControl (h : s.Inv) {sz : Size} {cr : BitVec 8} {src : Out Slot}
    (ht : loadControl sz cr src s = .next t) : t.Inv := by
  obtain ⟨c, -, ht⟩ := andThen_eq_next ht
  obtain ⟨a, -, ht⟩ := andThen_eq_next ht
  cases ht
  exact h.setCreg c _

/-! ## Instructions -/

/-- An instruction that writes a control of the machine keeps the invariant too. -/
theorem writesControl (h : s.Inv) {i : Instr} (hi : WritesControl i)
    (ht : exec i s = .next t) : t.Inv := by
  cases hi with
  | popSR => exact (h.ordinary (.popped .refl)).setSr ht
  | min =>
    obtain ⟨rfl, hb⟩ := setMax_eq_next ht
    exact h.changeMode hb
  | reti => exact h.returnFromException ht
  | ldcCr sz cr r => exact h.loadControl ht
  | halt | di | ei n | exFF =>
    cases ht
    exact { h with }
  | incf | decf | ldf n =>
    cases ht
    exact h.setRfp _
  | swi n =>
    cases ht
    exact (h.ordinary (.memWrite (.memWrite (.withXsp .refl)))).enterException _
  | ldir sz p | lddr sz p =>
    cases ht
    exact h.blockLoadRepeat _ sz p _
  | cpir sz R | cpdr sz R =>
    cases ht
    exact h.blockCompareRepeat _ sz R _

theorem exec (h : s.Inv) {i : Instr} (ht : exec i s = .next t) : t.Inv := by
  rcases exec_ordinary ht with hi | ho
  · exact h.writesControl hi ht
  · exact h.ordinary ho

/-- The pc past an instruction is a pc value of the mode. -/
theorem advance (h : s.Inv) (n : Nat) : (s.advance n).Inv :=
  { h with counter := fun hm => pcOf_lt hm _ }

theorem instruction (h : s.Inv) (ht : instruction s = .next t) : t.Inv := by
  rcases instruction_eq_next ht with ⟨-, rfl⟩ | ⟨-, i, n, hx, -⟩
  · exact h
  · exact (h.advance n).exec hx

/-! ## Offers -/

theorem enterInterrupt (h : s.Inv) (L : BitVec 3) (V : BitVec 24) :
    (s.enterInterrupt L V).Inv :=
  { (h.ordinary (.push (.pushPc .refl))).enterException V with }

theorem microDma (h : s.Inv) (n : BitVec 2) (mode : DmaMode) (sz : Size) :
    (s.microDma n mode sz).Inv := by
  have copied : (s.memWrite sz (s.dmad.get n) (s.memRead sz (s.dmas.get n))).Inv :=
    h.ordinary (.memWrite .refl)
  refine State.Inv.ordinary (State.Inv.setCreg (State.Inv.setCreg ?_ _ _) _ _) (.drawn .refl)
  cases mode with
  | ioToMemInc | ioToMemDec | memToIoInc | memToIoDec => exact copied.setCreg _ _
  | ioToIo => exact copied
  | dramRefresh | counter => exact h.setCreg _ _

/-- The reset sequence gives every field of the invariant but memory its value. -/
theorem of_resetSequence (h : Memory.wf s.mem = true) : s.resetSequence.Inv where
  memory := h
  bank _ := show (0 : BitVec 3).toNat < 4 by decide
  counter hm := by cases hm
  mode hm := by cases hm
  control c := by
    have hc : ∃ v, s.resetSequence.creg c = s.crFit c v := by
      cases c with
      | intnest => exact ⟨_, rfl⟩
      | dmas n | dmad n | dmac n | dmam n => exact freeFour_get s _ _ n
    obtain ⟨v, hv⟩ := hc
    rw [hv, crFit_congr (s := s) (t := s.resetSequence) rfl, crFit_crFit]

theorem accept (h : s.Inv) {o : Offer} (ht : s.accept o = some t) : t.Inv := by
  cases o with
  | idle => cases ht
  | request L V =>
    simp only [State.accept] at ht
    split at ht
    · cases ht
      exact h.begun.enterInterrupt L V
    · cases ht
  | microDma n mode sz =>
    cases ht
    exact h.begun.microDma n mode sz
  | reset =>
    cases ht
    exact of_resetSequence h.memory
  | resetDuring during done =>
    cases ht
    exact of_resetSequence (replay_wf _ s h.memory)

theorem step (h : s.Inv) (ht : step s = .next t) : t.Inv := by
  rcases step_eq_next ht with ⟨-, hi⟩ | ⟨o, later, -, ha | ⟨-, hi⟩⟩
  · exact h.instruction hi
  · exact (h.withOffers later).accept ha
  · exact (h.withOffers later).instruction hi

end State.Inv

/-- Every control register is 0 after reset. -/
theorem reset_creg (c : CReg) : State.reset.creg c = 0 := by
  cases c with
  | intnest => rfl
  | dmas n | dmad n | dmac n | dmam n => exact Four.get_all 0 n

theorem crFit_zero (s : State) (c : CReg) : s.crFit c 0 = 0 := by
  simp [State.crFit]

/-- Settles O11: the operations keep the invariant one by one, and a step is made of them. -/
theorem everyStepKeepsInvariant : Obligations.EveryStepKeepsInvariant :=
  fun _ _ h ht => h.step ht

/-- Settles O10. Reset is in maximum mode, so that the clauses of minimum mode ask nothing. -/
theorem resetMeetsInvariant : Obligations.ResetMeetsInvariant where
  memory := reset_memory_wf
  bank _ := by decide
  counter hm := by cases hm
  mode hm := by cases hm
  control c := by rw [reset_creg, crFit_zero]

end Sys2Proof.Machine
end

section
/-!
Where an instruction stops (00_scope.md R7; 10_state.md R11; 30_encoding.md R66): the operand
forms that answer no operand, and the instructions that pass their stop on.
-/

namespace Sys2Proof.Machine

/-! ## Outcomes in sequence -/

theorem andThen_of_fault {α β : Type} {x : Out α} {k : α → Out β} {e : Fault}
    (h : x = .fault e) : andThen x k = .fault e := by
  rw [h]
  rfl

theorem andThen_of_refused {α β : Type} {x : Out α} {k : α → Out β} {e : Refusal}
    (h : x = .refused e) : andThen x k = .refused e := by
  rw [h]
  rfl

/-- The first operand is there and the second one is not. -/
theorem andThen_of_next_fault {α β γ : Type} {x : Out α} {y : Out β} {k : α → β → Out γ}
    {a : α} {e : Fault} (hx : x = .next a) (hy : y = .fault e) :
    (andThen x fun a => andThen y (k a)) = .fault e := by
  rw [hx, hy]
  rfl

/-! ## Register codes without a register (30_encoding.md R66) -/

/-- The code is in the blank part 40H to CFH of the map of maximum mode. -/
def BlankCode (code : BitVec 8) : Prop := 0x40 ≤ code.toNat ∧ code.toNat < 0xD0

theorem maxModeRegMap_blank {code : BitVec 8} (h : BlankCode code) :
    maxModeRegMap code = none := by
  obtain ⟨hlo, hhi⟩ := h
  unfold maxModeRegMap
  have h4 : 4 ≤ code.toNat / 16 := by omega
  have h13 : code.toNat / 16 < 13 := by omega
  generalize code.toNat / 16 = row at h4 h13
  interval_cases row <;> rfl

section

variable {s : State} {code : BitVec 8}

theorem regMap_blank (hm : s.max = true) (h : BlankCode code) : s.regMap code = none := by
  rw [State.regMap, if_pos hm, maxModeRegMap_blank h]

theorem codeSlot_blank (hm : s.max = true) (h : BlankCode code) (sz : Size) :
    s.codeSlot sz code = .fault .undefinedRegisterCode := by
  rw [State.codeSlot, regMap_blank hm h]

theorem codeAddrReg_blank (hm : s.max = true) (h : BlankCode code) :
    s.codeAddrReg code = .fault .undefinedRegisterCode := by
  rw [State.codeAddrReg, regMap_blank hm h]

/-- The only stop of a register that supplies an address. -/
theorem codeAddrReg_next_or_fault (s : State) (code : BitVec 8) :
    (∃ r, s.codeAddrReg code = .next r) ∨
      s.codeAddrReg code = .fault .undefinedRegisterCode := by
  unfold State.codeAddrReg
  split
  · split
    · exact .inl ⟨_, rfl⟩
    · exact .inr rfl
  · exact .inr rfl

/-- The upper six bits 10H to 33H of a code are those of the blank part. -/
theorem fullCode_blank {r32 : BitVec 6} (hlo : 0x10 ≤ r32.toNat) (hhi : r32.toNat < 0x34) :
    BlankCode (fullCode r32) := by
  have h : (fullCode r32).toNat = r32.toNat * 4 := by
    rw [fullCode, BitVec.toNat_append]
    simp [Nat.shiftLeft_eq]
  unfold BlankCode
  omega

/-- A 3-bit code names a part that has room for twice the size. -/
theorem shortDesig_room (sz : Size) (c : BitVec 3) :
    (shortDesig sz c).off.toNat + sz.double.bytes ≤ 4 := by
  revert c
  cases sz <;> decide

/-- In maximum mode every part with room is there. -/
theorem resolve_of_max {sz : Size} {x : RegDesig} (hm : s.max = true)
    (hx : x.off.toNat + sz.bytes ≤ 4) : ∃ d, s.resolve sz x = .next d := by
  simp only [State.resolve, hm, hx, not_true_eq_false, if_true, if_false]
  split
  · exact ⟨_, rfl⟩
  · cases x.base <;> exact ⟨_, rfl⟩

theorem shortDouble_of_max (hm : s.max = true) (sz : Size) (c : BitVec 3) :
    ∃ d, s.shortDouble sz c = .next d :=
  resolve_of_max hm (shortDesig_room sz c)

theorem shortSlot_of_max (hm : s.max = true) (sz : Size) (c : BitVec 3) :
    ∃ d, s.shortSlot sz c = .next d := by
  have hb : sz.bytes ≤ sz.double.bytes := by cases sz <;> decide
  exact resolve_of_max hm (Nat.le_trans (Nat.add_le_add_left hb _) (shortDesig_room sz c))

/-- A 3-bit code below 4 names a banked register, which has no 32 bits in minimum mode. -/
theorem shortSlot_long_banked (hm : s.max = false) {R : BitVec 3} (hR : R.toNat < 4) :
    s.shortSlot .L R = .fault .bankedLongInMinimumMode := by
  have hd : ∃ k, shortDesig .L R = ⟨.cur k, 0⟩ := by
    unfold shortDesig
    generalize R.toNat = n at hR
    interval_cases n <;> exact ⟨_, rfl⟩
  obtain ⟨k, hk⟩ := hd
  have hroom : ¬ (0 : BitVec 2).toNat + Size.L.bytes ≤ 2 := by decide
  simp only [State.shortSlot, hk, State.resolve]
  rw [if_neg hroom, if_pos (by simp [hm])]

end

/-! ## The instruction of an operation in a form -/

section

variable (s : State) (sz : Size) (r : RegOp)

theorem exec_alu_regReg (op : AluOp) (R : BitVec 3) :
    exec (op.regReg sz R r) s = aluReg op sz (s.shortSlot sz R) (s.regSlot sz r) s := by
  cases op <;> rfl

theorem exec_alu_regImm (op : AluOp) (v : BitVec sz.bits) :
    exec (op.regImm sz r v) s = aluImm op sz (s.regSlot sz r) v s := by
  cases op <;> rfl

theorem exec_shift_regImm (op : ShiftOp) (n : BitVec 4) :
    exec (op.regImm sz n r) s = shiftReg op sz n (s.regSlot sz r) s := by
  cases op <;> rfl

theorem exec_shift_regA (op : ShiftOp) :
    exec (op.regA sz r) s = shiftReg op sz (s.regA.setWidth 4) (s.regSlot sz r) s := by
  cases op <;> rfl

theorem exec_carry_regImm (op : CarryOp) (n : BitVec 4) :
    exec (op.regImm sz n r) s = carryReg op sz n.toNat (s.regSlot sz r) s := by
  cases op <;> rfl

theorem exec_carry_regA (op : CarryOp) :
    exec (op.regA sz r) s = carryReg op sz (bitNumber s) (s.regSlot sz r) s := by
  cases op <;> rfl

end

/-! ## Instructions with a register operand that names no register -/

section

variable {s : State} {r : RegOp}

/-- In maximum mode the operand names no register, whatever the size. -/
structure NoRegister (s : State) (r : RegOp) : Prop where
  max : s.max = true
  slot : ∀ sz, s.regSlot sz r = .fault .undefinedRegisterCode
  double : ∀ sz, s.regDouble sz r = .fault .undefinedRegisterCode

theorem noRegister_of_blank {code : BitVec 8} (hm : s.max = true) (h : BlankCode code) :
    NoRegister s (.ext code) :=
  ⟨hm, codeSlot_blank hm h, fun sz => codeSlot_blank hm h sz.double⟩

/-- An instruction whose first operand is `r`. -/
theorem NoRegister.first (h : NoRegister s r) {α : Type} {sz : Size} {k : Slot → Out α} :
    andThen (s.regSlot sz r) k = .fault .undefinedRegisterCode :=
  andThen_of_fault (h.slot sz)

/-- `op rr,#`. -/
theorem NoRegister.firstDouble (h : NoRegister s r) {α : Type} {sz : Size}
    {k : Slot → Out α} : andThen (s.regDouble sz r) k = .fault .undefinedRegisterCode :=
  andThen_of_fault (h.double sz)

/-- `op R,r`. -/
theorem NoRegister.second (h : NoRegister s r) {α : Type} {sz : Size} {R : BitVec 3}
    {k : Slot → Slot → Out α} :
    (andThen (s.shortSlot sz R) fun d => andThen (s.regSlot sz r) (k d)) =
      .fault .undefinedRegisterCode := by
  obtain ⟨d, hd⟩ := shortSlot_of_max h.max sz R
  exact andThen_of_next_fault hd (h.slot sz)

/-- `op RR,r`. -/
theorem NoRegister.secondDouble (h : NoRegister s r) {α : Type} {sz : Size} {R : BitVec 3}
    {k : Slot → Slot → Out α} :
    (andThen (s.shortDouble sz R) fun d => andThen (s.regSlot sz r) (k d)) =
      .fault .undefinedRegisterCode := by
  obtain ⟨d, hd⟩ := shortDouble_of_max h.max sz R
  exact andThen_of_next_fault hd (h.slot sz)

end

/-! ## The clauses of the statement -/

/-- The instruction stops with the fault of an undefined register code. -/
def StopsUndefined (s : State) (i : Instr) : Prop :=
  exec i s = .fault .undefinedRegisterCode

section

variable {s : State} {r : RegOp} (h : NoRegister s r) (sz : Size)
include h

theorem immediate_forms_stop (v : BitVec sz.bits) :
    ∀ i ∈ [Instr.ldrI sz r v, .mulrrI sz r v, .mulsrrI sz r v, .divrrI sz r v,
      .divsrrI sz r v], StopsUndefined s i :=
  List.forall_iff_forall_mem.mp
    ⟨h.first, h.firstDouble, h.firstDouble, h.firstDouble, h.firstDouble⟩

theorem mula_stops : StopsUndefined s (.mula r) := by
  have hm : ¬ ¬ s.max = true := not_not.mpr h.max
  exact (if_neg hm).trans h.first

theorem plain_forms_stop :
    ∀ i ∈ [Instr.pushr sz r, .popr sz r, .cplr sz r, .negr sz r, .unlk r, .bs1f r, .bs1b r,
      .daa r, .extz sz r, .exts sz r, .paa sz r, .mirr r, .mula r, .stcfAr sz r],
      StopsUndefined s i :=
  List.forall_iff_forall_mem.mp
    ⟨h.first, h.first, h.first, h.first, h.first, h.first, h.first, h.first, h.first, h.first,
      h.first, h.first, mula_stops h, h.first⟩

theorem bit_forms_stop (n : BitVec 4) :
    ∀ i ∈ [Instr.stcfNr sz n r, .resNr sz n r, .setNr sz n r, .chgNr sz n r, .bitNr sz n r,
      .tsetNr sz n r], StopsUndefined s i :=
  List.forall_iff_forall_mem.mp ⟨h.first, h.first, h.first, h.first, h.first, h.first⟩

theorem short_forms_stop (R : BitVec 3) :
    ∀ i ∈ [Instr.mulRr sz R r, .mulsRr sz R r, .divRr sz R r, .divsRr sz R r, .incNr sz R r,
      .decNr sz R r, .ldRr sz R r, .ldrR sz r R, .ldrN sz r R, .exRr sz R r, .cprN sz r R],
      StopsUndefined s i :=
  List.forall_iff_forall_mem.mp
    ⟨h.secondDouble, h.secondDouble, h.secondDouble, h.secondDouble, h.first, h.first, h.second,
      h.first, h.first, h.second, h.first⟩

theorem word_forms_stop (v : BitVec 16) :
    ∀ i ∈ [Instr.link r v, .minc1 v r, .minc2 v r, .minc4 v r, .mdec1 v r, .mdec2 v r,
      .mdec4 v r], StopsUndefined s i :=
  List.forall_iff_forall_mem.mp ⟨h.first, h.first, h.first, h.first, h.first, h.first, h.first⟩

theorem alu_forms_stop (op : AluOp) (R : BitVec 3) (v : BitVec sz.bits) :
    StopsUndefined s (op.regReg sz R r) ∧ StopsUndefined s (op.regImm sz r v) :=
  ⟨(exec_alu_regReg ..).trans h.second, (exec_alu_regImm ..).trans h.first⟩

theorem shift_forms_stop (op : ShiftOp) (n : BitVec 4) :
    StopsUndefined s (op.regImm sz n r) ∧ StopsUndefined s (op.regA sz r) :=
  ⟨(exec_shift_regImm ..).trans h.first, (exec_shift_regA ..).trans h.first⟩

theorem carry_forms_stop (op : CarryOp) (n : BitVec 4) :
    StopsUndefined s (op.regImm sz n r) ∧ StopsUndefined s (op.regA sz r) :=
  ⟨(exec_carry_regImm ..).trans h.first, (exec_carry_regA ..).trans h.first⟩

end

/-- A control register of the product's map at its width. -/
theorem crOf_of_lookup {s : State} {sz : Size} {code : BitVec 8} {c : CReg}
    (hc : s.product.crMap.codes.lookup code = some c) (hw : s.crWidth c = sz) :
    s.crOf sz code = .next c := by
  rw [State.crOf, hc]
  exact if_pos hw

/-- LDC of a code outside the product's map or at another width (47_control.md R198). -/
theorem crOf_refused {s : State} {sz : Size} {code : BitVec 8}
    (h : ∀ c, s.product.crMap.codes.lookup code = some c → s.crWidth c ≠ sz) :
    s.crOf sz code = .refused .controlRegisterNotDescribed := by
  unfold State.crOf
  split
  · exact if_neg (h _ ‹_›)
  · rfl

theorem ldc_forms_stop {s : State} {r : RegOp} (h : NoRegister s r) {sz : Size}
    {cr : BitVec 8} {c : CReg} (hc : s.product.crMap.codes.lookup cr = some c)
    (hw : s.crWidth c = sz) :
    StopsUndefined s (.ldcCr sz cr r) ∧ StopsUndefined s (.ldcR sz r cr) :=
  ⟨andThen_of_next_fault (crOf_of_lookup hc hw) (h.slot sz),
    andThen_of_next_fault (crOf_of_lookup hc hw) (h.slot sz)⟩

/-- A blank code as base or index of a memory operand. -/
theorem eff_index_blank {s : State} {code : BitVec 8} (hm : s.max = true) (h : BlankCode code)
    (other : BitVec 8) :
    ∀ m ∈ [MemOp.index8 code other, .index16 code other, .index8 other code,
      .index16 other code], s.eff m = .fault .undefinedRegisterCode := by
  have base : ∀ k : AddrReg → Out Eff,
      andThen (s.codeAddrReg code) k = .fault .undefinedRegisterCode :=
    fun _ => andThen_of_fault (codeAddrReg_blank hm h)
  have index : ∀ (sz : Size) (k : AddrReg → Slot → Out Eff),
      (andThen (s.codeAddrReg other) fun r => andThen (s.codeSlot sz code) (k r)) =
        .fault .undefinedRegisterCode := by
    intro sz k
    rcases codeAddrReg_next_or_fault s other with ⟨r, hr⟩ | hr
    · exact andThen_of_next_fault hr (codeSlot_blank hm h sz)
    · exact andThen_of_fault hr
  exact List.forall_iff_forall_mem.mp ⟨base _, base _, index .B _, index .W _⟩

/-- A blank code as `r32` of a memory operand. -/
theorem eff_r32_blank {s : State} {r32 : BitVec 6} (hm : s.max = true)
    (hlo : 0x10 ≤ r32.toNat) (hhi : r32.toNat < 0x34) (d : BitVec 16) (st : Step) :
    ∀ m ∈ [MemOp.indExt r32, .disp16 r32 d, .preDec r32 st, .postInc r32 st],
      s.eff m = .fault .undefinedRegisterCode := by
  have stop : ∀ k : AddrReg → Out Eff,
      andThen (s.codeAddrReg (fullCode r32)) k = .fault .undefinedRegisterCode :=
    fun _ => andThen_of_fault (codeAddrReg_blank hm (fullCode_blank hlo hhi))
  exact List.forall_iff_forall_mem.mp ⟨stop _, stop _, stop _, stop _⟩

/-- SR.MAX is not cleared on a product without minimum mode (00_scope.md R7). -/
theorem setMax_refused {s : State} (h : s.product.minModeAvailable = false) :
    s.setMax false = .refused .minimumModeNotAvailable := by
  rw [State.setMax, h]
  rfl

theorem setSr_refused {s : State} {v : BitVec 16} (h : s.product.minModeAvailable = false)
    (hv : v.getLsbD 11 = false) : s.setSr v = .refused .minimumModeNotAvailable := by
  unfold State.setSr
  rw [hv]
  exact andThen_of_refused (setMax_refused h)

/-- An address that is not accessed, with a mode that steps (92_eei_decisions.md D21). -/
theorem addressEff_refused {s : State} {m : MemOp} {e : Eff} (hb : s.product.bareStep = .refused)
    (he : s.eff m = .next e) (hs : e.stepping ≠ .none) :
    s.addressEff m = .refused .stepWithoutAccess := by
  simp only [State.addressEff, he, andThen_next, hb]
  cases hstep : e.stepping with
  | none => exact absurd hstep hs
  | pre r => simp [Eff.stepped, hstep]
  | post r d => simp [Eff.stepped, hstep]

theorem loadAddress_refused {s : State} {m : MemOp} {sz : Size} {R : BitVec 3} {d : Slot}
    (hd : s.shortSlot sz R = .next d)
    (he : s.addressEff m = .refused .stepWithoutAccess) :
    loadAddress sz R m s = .refused .stepWithoutAccess := by
  rw [loadAddress, hd, he]
  rfl

/-- Settles O60, a clause at a time, each by the operand form that stops. -/
theorem namedStops : Obligations.NamedStops := by
  intro s
  refine ⟨?blank, ?r32, ?banked, ?mula, ?minimum, ?ldx, ?ldc, ?bareStep⟩
  case blank =>
    intro sz code hm hlo hhi
    have hb : BlankCode code := ⟨hlo, hhi⟩
    have h : NoRegister s (.ext code) := noRegister_of_blank hm hb
    exact ⟨h.slot sz, h.double sz, immediate_forms_stop h sz, plain_forms_stop h sz,
      bit_forms_stop h sz, short_forms_stop h sz, word_forms_stop h,
      fun d cc => ⟨h.first, h.first⟩, alu_forms_stop h sz, shift_forms_stop h sz,
      carry_forms_stop h sz, fun cr c hc hw => ldc_forms_stop h hc hw, eff_index_blank hm hb⟩
  case r32 =>
    intro r32 d st hm hlo hhi
    exact eff_r32_blank hm hlo hhi d st
  case banked =>
    intro R hm hR
    have h := shortSlot_long_banked hm hR
    exact ⟨h, fun v => andThen_of_fault h⟩
  case mula =>
    intro r hm
    exact if_pos (by simp [hm])
  case minimum =>
    intro h
    refine ⟨setMax_refused h, fun hv => ⟨setSr_refused (by simpa using h) hv, ?_⟩⟩
    exact andThen_of_refused (setSr_refused (by simpa using h) hv)
  case ldx =>
    intro h a v
    exact if_neg (by simp [h])
  case ldc =>
    intro sz code r h
    exact ⟨andThen_of_refused (crOf_refused h), andThen_of_refused (crOf_refused h)⟩
  case bareStep =>
    intro m e R cc hb he hs
    have h := addressEff_refused hb he hs
    exact ⟨andThen_of_refused h, andThen_of_refused h, fun d hd => loadAddress_refused hd h,
      fun d hd => loadAddress_refused hd h⟩

end Sys2Proof.Machine
end

section
/-!
Reads and writes of memory (20_memory.md R41 to R43, R50, R55), and the instructions that store
to it (41_load.md R100; 47_control.md R199).
-/

namespace Sys2Proof.Machine

/-! ## Reads -/

/-- Bits 23:0 of an address. -/
theorem cellOf_eq_mod (a : Word32) : cellOf a = a.toNat % 2 ^ 24 :=
  BitVec.toNat_setWidth 24 a

/-- An address of RAM or ROM reads as the byte that memory holds there. -/
theorem isMemory_of_ram_or_rom {s : State} {a : Word32} (h : s.area a = .ram ∨ s.area a = .rom) :
    s.isMemory a = true := by
  rcases h with h | h
  · exact isMemory_of_ram h
  · simp [State.isMemory, h]

/-- A value put above `w` further bits has its place from bit `w` up. -/
theorem toNat_append_add {v w : Nat} (hi : BitVec v) (lo : BitVec w) :
    (hi ++ lo).toNat = lo.toNat + 2 ^ w * hi.toNat := by
  rw [BitVec.toNat_append, ← Nat.shiftLeft_add_eq_or_of_lt lo.isLt, Nat.shiftLeft_eq,
    Nat.mul_comm, Nat.add_comm]

/-- Settles O14: each byte of a read is put above those at the lower addresses. -/
theorem memReadIsLittleEndian : Obligations.MemReadIsLittleEndian := by
  intro s a
  refine ⟨fun x hx => ?_, rfl, toNat_append_add _ _, ?_⟩
  · rw [byte_of_isMemory (isMemory_of_ram_or_rom hx), State.cell, cellOf_eq_mod]
  · simp only [State.memRead, toNat_append_add]
    omega

/-! ## Writes -/

/-- Settles O15, from what a write stores and what it keeps. -/
theorem memWriteStoresEachByte : Obligations.MemWriteStoresEachByte := by
  intro s sz a v hwf
  have stored := stored_memWrite s sz a v hwf
  have kept := kept_memWrite s sz a v
  exact ⟨stored, stored.read kept.product, kept.memory, fun p => kept.registers p id,
    memWrite_stores s sz a v, memWrite_wf s sz a v hwf⟩

/-- A store beside changes of registers. -/
theorem kept_memWrite_beside (s : State) (sz : Size) (a : Word32) (v : BitVec sz.bits)
    {regs : PReg → Prop} : s.Kept (s.memWrite sz a v) regs (touches sz a) :=
  (kept_memWrite s sz a v).mono (fun _ h => h.elim) fun _ h => h

/-! ## Stores of an instruction -/

section

variable {s : State} {m : MemOp} {e : Eff} {sz : Size}

/-- A store at an effective address, the memory operand finished after it. -/
theorem setsMem_memWrite (hwf : Memory.wf s.mem = true) (he : s.eff m = .next e)
    (v : BitVec sz.bits) :
    s.SetsMem (((s.preStep e).memWrite sz e.addr v).postStep e) sz e v :=
  setsMem_of he hwf (State.Kept.refl _) (by simp)

/-- A store at an address that no register supplies. -/
theorem setsMem_memWrite_abs (hwf : Memory.wf s.mem = true) (sz : Size) (a : BitVec 8)
    (v : BitVec sz.bits) :
    s.SetsMem (s.memWrite sz (a.setWidth 32) v) sz ⟨a.setWidth 32, .none⟩ v :=
  setsMem_memWrite (m := .abs8 a) hwf rfl v

/-- `(mem) <- v`: the value is the one of the state that the pre-decrement leaves. -/
theorem storeValue_setsMem (hwf : Memory.wf s.mem = true) (he : s.eff m = .next e)
    (v : State → BitVec sz.bits) :
    ∃ t, storeValue sz m v s = .next t ∧ s.SetsMem t sz e (v (s.preStep e)) ∧ t.f = s.f :=
  ⟨_, withMem_of_eff _ he, setsMem_memWrite hwf he _, by simp⟩

/-- `(mem) <- reg`. -/
theorem storeReg_setsMem (hwf : Memory.wf s.mem = true) (he : s.eff m = .next e)
    {src : Out Slot} {a : Slot} (ha : src = .next a) :
    ∃ t, storeReg sz m src s = .next t ∧ s.SetsMem t sz e ((s.preStep e).slot sz a) ∧
      t.f = s.f := by
  rw [ha]
  exact storeValue_setsMem hwf he fun t => t.slot sz a

/-- `(#16) <- (mem)`: the memory operand only supplies the value. -/
theorem copyToAbs_stores (hwf : Memory.wf s.mem = true) (he : s.eff m = .next e)
    (a : BitVec 16) :
    ∃ t, copyToAbs sz a m s = .next t ∧ t.f = s.f ∧ t.pc = s.pc ∧
      s.Stored t sz (a.setWidth 32) ((s.preStep e).memRead sz e.addr) ∧ s.SteppedTo t e ∧
      s.Kept t e.stepsReg (touches sz (a.setWidth 32)) := by
  have hwf' : Memory.wf (s.preStep e).mem = true := by simpa using hwf
  refine ⟨_, withMem_of_eff _ he, by simp, by simp, ?stored, ?stepped, ?kept⟩
  case stored =>
    exact (stored_memWrite (s.preStep e) sz _ _ hwf').of_cells
      (fun _ => cell_congr (by simp) _) (by simp) fun _ => cell_congr (by simp) _
  case stepped => exact steppedTo_of he fun p _ => memWrite_reg ..
  case kept =>
    exact (((kept_preStep s e).widen fun _ h => h).trans
      (kept_memWrite_beside _ sz _ _)).trans
      ((kept_postStep _ e).widen fun _ h => h)

/-- LDX on a product that has it. -/
theorem exec_ldx (h : s.product.ldxAvailable = true) (a v : BitVec 8) :
    exec (.ldx a v) s = .next (s.memWrite .B (a.setWidth 32) v) :=
  if_pos h

end

/-- Settles O45: every form is a store at an address of its own, or at an effective address. -/
theorem storeForms : Obligations.StoreForms := by
  intro s hwf
  refine ⟨?ld8, ?ldw8, ?ldx, fun m e he => ?mem⟩
  case ld8 => exact fun a v => ⟨_, rfl, setsMem_memWrite_abs hwf .B a v, by simp⟩
  case ldw8 => exact fun a v => ⟨_, rfl, setsMem_memWrite_abs hwf .W a v, by simp⟩
  case ldx => exact fun a v hx => ⟨_, exec_ldx hx a v, setsMem_memWrite_abs hwf .B a v, by simp⟩
  case mem =>
    exact ⟨fun v => storeValue_setsMem (sz := .B) hwf he fun _ => v,
      fun v => storeValue_setsMem (sz := .W) hwf he fun _ => v,
      fun a => storeValue_setsMem hwf he fun t => t.memRead .B (a.setWidth 32),
      fun a => storeValue_setsMem hwf he fun t => t.memRead .W (a.setWidth 32),
      fun R a ha => storeReg_setsMem (sz := .B) hwf he ha,
      fun R a ha => storeReg_setsMem (sz := .W) hwf he ha,
      fun R a ha => storeReg_setsMem (sz := .L) hwf he ha,
      fun sz a => copyToAbs_stores hwf he a⟩

end Sys2Proof.Machine
end

section
/-!
The stack (20_memory.md R44): what a push and a pop change, also where the memory operand steps
XSP itself, and the forms of PUSH and POP (41_load.md R101, R102; 47_control.md R194).
-/

namespace Sys2Proof.Machine

/-! ## A memory operand that steps XSP -/

section

variable {s : State} {m : MemOp} {e : Eff} {r : AddrReg}

/-- A stepped register is one that an `r32` field names. -/
theorem codeAddrReg_of_stepped (he : s.eff m = .next e) (hr : e.stepped = some r) :
    ∃ r32, s.codeAddrReg (fullCode r32) = .next r := by
  cases m with
  | preDec r32 st | postInc r32 st =>
    obtain ⟨r', hr', h⟩ := andThen_eq_next he
    cases h
    cases hr
    exact ⟨r32, hr'⟩
  | ind R | disp8 R d | abs8 a | abs16 a | abs24 a =>
    cases he
    cases hr
  | indExt r32 | disp16 r32 d =>
    obtain ⟨_, _, h⟩ := andThen_eq_next he
    cases h
    cases hr
  | index8 base idx | index16 base idx =>
    obtain ⟨_, _, h⟩ := andThen_eq_next he
    obtain ⟨_, _, h⟩ := andThen_eq_next h
    cases h
    cases hr

/-- A fixed register supplies all its 32 bits in either mode. -/
theorem narrow_eq_false_of_fixed {code : BitVec 8} {j : FixedReg} (h : s.codeAddrReg code = .next r)
    (hj : r.reg = .fixed j) : r.narrow = false := by
  obtain ⟨x, -, -, rfl⟩ := codeAddrReg_eq_next h
  cases hb : x.base with
  | fixed l => rfl
  | cur k | prev k | abs n k =>
    rw [hb] at hj
    cases hj

theorem stepAddrReg_xsp (u : State) (hn : r.narrow = false)
    (hr : r.reg = .fixed .xsp) (d : Word32) : (u.stepAddrReg r d).xsp = u.xsp + d := by
  simp [State.stepAddrReg, State.setAddrReg, State.addrValue, AddrReg.trunc, hn, hr, State.setReg,
    State.reg]

/-- A mode that steps XSP adds its increment to what the instruction has left there. -/
theorem postStep_xsp_of_steps (u : State) (he : s.eff m = .next e)
    (hx : e.stepsReg (.fixed .xsp)) : (u.postStep e).xsp = u.xsp + e.increment := by
  obtain ⟨r, hr, hreg⟩ := hx
  obtain ⟨r32, hcode⟩ := codeAddrReg_of_stepped he hr
  have hn := narrow_eq_false_of_fixed hcode hreg
  unfold State.postStep Eff.increment
  cases hs : e.stepping with
  | none | pre q => exact (BitVec.add_zero _).symm
  | post q d =>
    obtain rfl : q = r := by simpa [Eff.stepped, hs] using hr
    exact stepAddrReg_xsp u hn hreg d

/-- A mode that does not step XSP leaves it. -/
theorem postStep_xsp_of_not_steps (u : State) (hx : ¬ e.stepsReg (.fixed .xsp)) :
    (u.postStep e).xsp = u.xsp :=
  (kept_postStep u e).registers (.fixed .xsp) hx

end

/-! ## PUSH -/

section

variable {s u : State} {sz : Size} {v : BitVec sz.bits}

theorem kept_push (s : State) (sz : Size) (v : BitVec sz.bits) :
    s.Kept (s.push sz v) (fun p => p = .fixed .xsp) (touches sz (s.xsp - byteCount sz)) :=
  ((kept_withXsp s _).widen fun _ h => h).trans
    (kept_memWrite_beside _ sz _ v)

/-- A push stores its value under XSP. -/
theorem stored_push (s : State) (sz : Size) (v : BitVec sz.bits) (hwf : Memory.wf s.mem = true) :
    s.Stored (s.push sz v) sz (s.xsp - byteCount sz) v :=
  (stored_memWrite { s with xsp := s.xsp - byteCount sz } sz _ v hwf).of_cells
    (fun _ => rfl) rfl fun _ => rfl

/-- A push, whatever happens to the registers in `more` afterwards. -/
theorem pushes_of {more : PReg → Prop} (hwf : Memory.wf s.mem = true)
    (hu : (s.push sz v).Kept u more nowhere) : s.Pushes u sz v more where
  stored := (stored_push s sz v hwf).of_cells (fun _ => rfl) rfl fun x => hu.memory x id
  kept := ((kept_push s sz v).mono (fun _ h => .inl h) fun _ h => h).trans
    (hu.widen fun _ h => .inr h)

/-- From `s` to `t` the value is pushed, and nothing else changes but the draws. -/
def State.PushesOnly (s t : State) (sz : Size) (v : BitVec sz.bits) : Prop :=
  s.Pushes t sz v noReg ∧ t.f = s.f ∧ t.pc = s.pc ∧ t.xsp = s.xsp - byteCount sz

theorem pushesOnly_push (hwf : Memory.wf s.mem = true) (sz : Size) (v : BitVec sz.bits) :
    s.PushesOnly (s.push sz v) sz v :=
  ⟨pushes_of hwf (State.Kept.refl _), by simp, by simp, by simp⟩

theorem pushesOnly_push_drawn (hwf : Memory.wf s.mem = true) (sz : Size) (v : BitVec sz.bits)
    (n : Nat) :
    s.PushesOnly ((s.push sz v).drawn n) sz v :=
  ⟨pushes_of hwf (kept_drawn _ n), by simp, by simp, by simp⟩

theorem pushSlot_of_ne {a : Slot} (h : a.reg ≠ .fixed .xsp) :
    s.pushSlot sz a = s.push sz (s.slot sz a) :=
  if_neg h

/-- Of a part of XSP the value is the one before or the one after the decrement. -/
theorem pushSlot_of_xsp {a : Slot} (h : a.reg = .fixed .xsp) :
    s.pushSlot sz a = (s.push sz (s.slot sz a)).drawn 1 ∨
      s.pushSlot sz a =
        (s.push sz (State.slot { s with xsp := s.xsp - byteCount sz } sz a)).drawn 1 := by
  rw [State.pushSlot, if_pos h]
  split
  · exact .inl rfl
  · exact .inr rfl

/-- The forms of PUSH of a register. -/
theorem pushReg_pushes (hwf : Memory.wf s.mem = true) {src : Out Slot} {a : Slot}
    (ha : src = .next a) :
    (a.reg ≠ .fixed .xsp →
      ∃ t, pushReg sz src s = .next t ∧ s.PushesOnly t sz (s.slot sz a)) ∧
    (a.reg = .fixed .xsp →
      (∃ t, pushReg sz src s = .next t ∧ s.PushesOnly t sz (s.slot sz a)) ∨
      ∃ t, pushReg sz src s = .next t ∧
        s.PushesOnly t sz (State.slot { s with xsp := s.xsp - byteCount sz } sz a)) := by
  have hx : pushReg sz src s = .next (s.pushSlot sz a) := by
    rw [ha]
    rfl
  rw [hx]
  refine ⟨fun h => ⟨_, rfl, ?_⟩, fun h => ?_⟩
  · rw [pushSlot_of_ne h]
    exact pushesOnly_push hwf sz _
  · rcases pushSlot_of_xsp (s := s) (sz := sz) h with h | h
    · exact .inl ⟨_, congrArg _ h, pushesOnly_push_drawn hwf sz _ 1⟩
    · exact .inr ⟨_, congrArg _ h, pushesOnly_push_drawn hwf sz _ 1⟩

/-- PUSH (mem): the operand is read before XSP moves, a post-increment comes after the push. -/
theorem pushMem_pushes {m : MemOp} {e : Eff} (hwf : Memory.wf s.mem = true)
    (he : s.eff m = .next e) :
    ∃ t, pushMem sz m s = .next t ∧ t.f = s.f ∧ t.pc = s.pc ∧
      (s.preStep e).Pushes t sz ((s.preStep e).memRead sz e.addr) e.stepsReg ∧
      (¬ e.stepsReg (.fixed .xsp) →
        t.xsp = (s.preStep e).xsp - byteCount sz ∧ s.SteppedTo t e) ∧
      (e.stepsReg (.fixed .xsp) →
        t.xsp = (s.preStep e).xsp - byteCount sz + e.increment) := by
  have hwf' : Memory.wf (s.preStep e).mem = true := by simpa using hwf
  refine ⟨_, withMem_of_eff _ he, by simp, by simp, pushes_of hwf' (kept_postStep _ e), ?_, ?_⟩
  · intro hx
    refine ⟨?_, steppedTo_of he fun p hp => ?_⟩
    · rw [postStep_xsp_of_not_steps _ hx, push_xsp]
    · exact (kept_push _ sz _).registers p fun hpx => hx (hpx ▸ hp)
  · intro hx
    rw [postStep_xsp_of_steps _ he hx, push_xsp]

end

/-- Settles O47: every form is a push; of a register, of what `pushSlot` chooses, and of a memory
operand, in the state that its pre-decrement leaves. -/
theorem pushForms : Obligations.PushForms := by
  intro s hwf
  refine ⟨?sr, ?f, ?a, ?imm8, ?imm16, ?word, ?long, ?reg, ?mem⟩
  case sr => exact ⟨_, rfl, pushesOnly_push hwf .W s.sr⟩
  case f => exact ⟨_, rfl, pushesOnly_push hwf .B s.f.byte⟩
  case a => exact ⟨_, rfl, pushesOnly_push hwf .B s.regA⟩
  case imm8 => exact fun v => ⟨_, rfl, pushesOnly_push hwf .B v⟩
  case imm16 => exact fun v => ⟨_, rfl, pushesOnly_push hwf .W v⟩
  case word => exact fun R a ha => pushReg_pushes hwf ha
  case long => exact fun R a ha => pushReg_pushes hwf ha
  case reg => exact fun sz r a ha => pushReg_pushes hwf ha
  case mem => exact fun sz m e he => pushMem_pushes hwf he

/-! ## POP -/

section

variable {s : State} {sz : Size} {d : Slot}

theorem kept_popped (s : State) (sz : Size) :
    s.Kept (s.popped sz) (fun p => p = .fixed .xsp) nowhere :=
  kept_withXsp s _

theorem popSlot_of_ne (h : d.reg ≠ .fixed .xsp) :
    s.popSlot sz d = (s.popped sz).setSlot sz d (s.top sz) :=
  if_neg h

/-- In a part of XSP the loaded value or the moved XSP remains. -/
theorem popSlot_of_xsp (h : d.reg = .fixed .xsp) :
    s.popSlot sz d = ((s.popped sz).setSlot sz d (s.top sz)).drawn 1 ∨
      s.popSlot sz d = (s.popped sz).drawn 1 := by
  rw [State.popSlot, if_pos h]
  split
  · exact .inl rfl
  · exact .inr rfl

theorem kept_popSetSlot (s : State) (sz : Size) (d : Slot) (v : BitVec sz.bits) :
    s.Kept ((s.popped sz).setSlot sz d v) (fun p => p = d.reg ∨ p = .fixed .xsp) nowhere :=
  ((kept_popped s sz).widen fun _ h => .inr h).trans
    ((kept_setSlot _ sz d v).widen fun _ h => .inl h)

theorem popSlot_f (s : State) (sz : Size) (d : Slot) : (s.popSlot sz d).f = s.f := by
  by_cases h : d.reg = .fixed .xsp
  · rcases popSlot_of_xsp (s := s) (sz := sz) h with hp | hp <;> simp [hp]
  · simp [popSlot_of_ne h]

/-- A pop into a register other than XSP: the register is written over the moved XSP, and each
keeps what the other gets. -/
theorem popsReg_of_ne (hf : d.fits sz) (h : d.reg ≠ .fixed .xsp) (v : BitVec sz.bits) :
    s.PopsReg ((s.popped sz).setSlot sz d v) sz d v where
  wrote _ := by
    have hw := wrote_setSlot (s.popped sz) sz d v hf
    have hreg : (s.popped sz).reg d.reg = s.reg d.reg := (kept_popped s sz).registers _ h
    refine ⟨⟨hw.value, fun i hi => (hw.rest i hi).trans (by rw [hreg])⟩, ?_⟩
    exact (kept_setSlot (s.popped sz) sz d v).registers (.fixed .xsp) h.symm
  pointer hx := absurd hx h
  kept := kept_popSetSlot s sz d v
  pc := by simp

theorem popsReg_popSlot (hf : d.fits sz) : s.PopsReg (s.popSlot sz d) sz d (s.top sz) := by
  by_cases h : d.reg = .fixed .xsp
  · rcases popSlot_of_xsp (s := s) (sz := sz) h with hp | hp
    · rw [hp]
      exact ⟨fun hn => absurd h hn,
        fun _ => .inr ((wrote_setSlot (s.popped sz) sz d _ hf).of_reg (drawn_reg ..)),
        (kept_popSetSlot s sz d _).trans (kept_drawn _ 1), by simp⟩
    · rw [hp]
      exact ⟨fun hn => absurd h hn, fun _ => .inl rfl,
        ((kept_popped s sz).widen fun _ h => .inr h).trans (kept_drawn _ 1), rfl⟩
  · rw [popSlot_of_ne h]
    exact popsReg_of_ne hf h _

/-- The forms of POP of a register. -/
theorem popReg_pops {dst : Out Slot} (hd : dst = .next d) (hf : d.fits sz) :
    ∃ t, popReg sz dst s = .next t ∧ s.PopsReg t sz d (s.top sz) ∧ t.f = s.f := by
  rw [hd]
  exact ⟨_, rfl, popsReg_popSlot hf, popSlot_f s sz d⟩

/-- A byte at the bottom of a register is there in every bank. -/
theorem curSlot_fits (s : State) (k : BankedReg) : (s.curSlot k).fits .B :=
  ⟨show (0 : BitVec 2).toNat + Size.B.bytes ≤ 4 by decide,
    .inr (show (0 : BitVec 2).toNat + Size.B.bytes ≤ 2 by decide)⟩

/-- POP (mem): the address comes first, a post-increment after the pop. -/
theorem popMem_pops {m : MemOp} {e : Eff} (hwf : Memory.wf s.mem = true)
    (he : s.eff m = .next e) :
    ∃ t, popMem sz m s = .next t ∧ t.f = s.f ∧ t.pc = s.pc ∧
      (s.preStep e).Stored t sz e.addr ((s.preStep e).top sz) ∧
      (s.preStep e).Kept t (fun p => p = .fixed .xsp ∨ e.stepsReg p) (touches sz e.addr) ∧
      (¬ e.stepsReg (.fixed .xsp) →
        t.xsp = (s.preStep e).xsp + byteCount sz ∧ s.SteppedTo t e) ∧
      (e.stepsReg (.fixed .xsp) →
        t.xsp = (s.preStep e).xsp + byteCount sz + e.increment) := by
  have hwf' : Memory.wf ((s.preStep e).popped sz).mem = true := by simpa using hwf
  refine ⟨_, withMem_of_eff _ he, by simp, by simp, ?stored, ?kept, fun hx => ?other,
    fun hx => ?xsp⟩
  case stored =>
    exact (stored_memWrite ((s.preStep e).popped sz) sz _ _ hwf').of_cells
      (fun _ => rfl) rfl fun _ => cell_congr (by simp) _
  case kept =>
    exact (((kept_popped _ sz).widen fun _ h => .inl h).trans
      (kept_memWrite_beside _ sz _ _)).trans
      ((kept_postStep _ e).widen fun _ h => .inr h)
  case other =>
    refine ⟨?_, steppedTo_of he fun p hp => ?_⟩
    · rw [postStep_xsp_of_not_steps _ hx, memWrite_xsp, popped_xsp]
    · rw [memWrite_reg]
      exact (kept_popped _ sz).registers p fun hpx => hx (hpx ▸ hp)
  case xsp => rw [postStep_xsp_of_steps _ he hx, memWrite_xsp, popped_xsp]

end

/-- Settles O48: the forms of POP of a register, and POP (mem) at its two sizes. -/
theorem popForms : Obligations.PopForms := by
  intro s hwf
  refine ⟨?a, rfl, ?word, ?long, ?reg, ?mem⟩
  case a =>
    have hne : (s.curSlot .xwa).reg ≠ .fixed .xsp := nofun
    exact ⟨_, rfl, popsReg_of_ne (curSlot_fits s .xwa) hne _, by simp⟩
  case word => exact fun R d hd => popReg_pops hd (shortSlot_fits hd)
  case long => exact fun R d hd => popReg_pops hd (shortSlot_fits hd)
  case reg => exact fun sz r d hd => popReg_pops hd (regSlot_fits hd)
  case mem =>
    exact List.forall_iff_forall_mem.mp
      ⟨fun m e he => popMem_pops hwf he, fun m e he => popMem_pops hwf he⟩

end Sys2Proof.Machine
end

section
/-!
The entry of a general-purpose interrupt (60_exceptions.md R253 to R257).
-/

namespace Sys2Proof.Machine

/-! ## The frame -/

/-- SR below an address and a value from it up are in different bytes, around FFFFFFH too. -/
theorem touches_below_disjoint {sz : Size} {y x : Word32} (h : touches .W (y - 2) x) :
    ¬ touches sz y x := by
  rintro ⟨k, hk, hxk⟩
  obtain ⟨j, hj, hxj⟩ := h
  have hj' : j < 2 := hj
  have hk' : k < 4 := hk.trans_le (by cases sz <;> decide)
  have h2 : (2 : Word32).toNat = 2 := rfl
  rw [hxj] at hxk
  simp only [cellOf_eq_mod, BitVec.toNat_add, BitVec.toNat_sub, BitVec.toNat_ofNat, h2] at hxk
  omega

/-- A store is there over steps that keep its own bytes. -/
theorem State.Stored.of_cells_at {s s' t u : State} {sz : Size} {a : Word32}
    {v : BitVec sz.bits} (h : s'.Stored t sz a v)
    (hs : ∀ k, k < sz.bytes → s'.cell (a + BitVec.ofNat 32 k) = s.cell (a + BitVec.ofNat 32 k))
    (hp : s'.product = s.product)
    (hu : ∀ k, k < sz.bytes → u.cell (a + BitVec.ofNat 32 k) = t.cell (a + BitVec.ofNat 32 k)) :
    s.Stored u sz a v := by
  intro k hk
  rw [hu k hk, h k hk, hs k hk, area_congr hp]

section

variable (s : State) (hwf : Memory.wf s.mem = true)

theorem xsp_pushPc : s.pushPc.xsp = s.xsp - byteCount s.pcSize := push_xsp ..

theorem sr_pushPc : s.pushPc.sr = s.sr := by simp [State.sr]

theorem kept_pushPc :
    s.Kept s.pushPc (fun p => p = .fixed .xsp) (touches s.pcSize (s.xsp - byteCount s.pcSize)) :=
  kept_push ..

/-- The second push of the frame. -/
theorem kept_pushSr :
    s.pushPc.Kept s.savePcThenSr (fun p => p = .fixed .xsp)
      (touches .W (s.xsp - byteCount s.pcSize - 2)) := by
  have h := kept_push s.pushPc .W s.sr
  rw [xsp_pushPc] at h
  exact h

theorem kept_savePcThenSr :
    s.Kept s.savePcThenSr (fun p => p = .fixed .xsp)
      (fun a => touches .W (s.xsp - byteCount s.pcSize - 2) a ∨
        touches s.pcSize (s.xsp - byteCount s.pcSize) a) :=
  ((kept_pushPc s).mono (fun _ h => h) fun _ h => .inr h).trans
    ((kept_pushSr s).mono (fun _ h => h) fun _ h => .inl h)

include hwf

theorem stored_status : s.Stored s.savePcThenSr .W s.savePcThenSr.xsp s.sr := by
  have h := stored_push s.pushPc .W s.sr (push_wf _ _ _ hwf)
  rw [savePcThenSr_xsp]
  rw [xsp_pushPc] at h
  exact h.of_cells_at
    (fun j hj => (kept_pushPc s).memory _ (touches_below_disjoint ⟨j, hj, rfl⟩)) (by simp)
    fun _ _ => rfl

theorem stored_counter :
    s.Stored s.savePcThenSr s.pcSize (s.savePcThenSr.xsp + 2) (s.pc.setWidth _) := by
  have h := stored_push s s.pcSize (s.pc.setWidth _) hwf
  rw [savePcThenSr_xsp, BitVec.sub_add_cancel]
  exact h.of_cells_at (fun _ _ => rfl) rfl fun k hk =>
    (kept_pushSr s).memory _ fun hr => touches_below_disjoint hr ⟨k, hk, rfl⟩

end

/-! ## The entry -/

section

variable {s : State} {L : BitVec 3} {V : BitVec 24}

/-- What an entry keeps beside INTNEST, IFF, the halted flag and the block instruction. -/
theorem kept_enterInterrupt (s : State) (L : BitVec 3) (V : BitVec 24) :
    s.Kept
      { s.enterInterrupt L V with
        intnest := s.intnest, iff := s.iff, halted := s.halted, repeating := s.repeating }
      (fun p => p = .fixed .xsp)
      (fun a => touches .W (s.xsp - byteCount s.pcSize - 2) a ∨
        touches s.pcSize (s.xsp - byteCount s.pcSize) a) :=
  { kept_savePcThenSr s with
    iff := rfl, intnest := rfl, halted := rfl, repeating := rfl }

/-- The handler is read after the frame is stored, as memory then is. -/
theorem enterInterrupt_pc (s : State) (L : BitVec 3) (V : BitVec 24) :
    (s.enterInterrupt L V).pc = s.pcOf
      ((({ s with mem := (s.enterInterrupt L V).mem } : State).memRead s.pcSize
        (s.vectorAddr V)).setWidth 32) := by
  have hsize : s.savePcThenSr.pcSize = s.pcSize := by simp [State.pcSize]
  have hvector : s.savePcThenSr.vectorAddr V = s.vectorAddr V := by simp [State.vectorAddr]
  have hread : s.savePcThenSr.memRead s.pcSize (s.vectorAddr V) =
      ({ s with mem := (s.enterInterrupt L V).mem } : State).memRead s.pcSize (s.vectorAddr V) :=
    memRead_congr (by rfl) (by simp) (by simp) _ _
  calc (s.enterInterrupt L V).pc
    _ = s.savePcThenSr.pcOf ((s.savePcThenSr.memRead s.savePcThenSr.pcSize
          (s.savePcThenSr.vectorAddr V)).setWidth 32) := rfl
    _ = _ := by rw [pcOf_congr (savePcThenSr_max s), hsize, hvector, hread]

theorem enters_enterInterrupt (hwf : Memory.wf s.mem = true) :
    s.Enters (s.enterInterrupt L V) V where
  pointer := savePcThenSr_xsp s
  status := stored_status s hwf
  counter := stored_counter s hwf
  nesting := by
    have h : s.savePcThenSr.intnest = s.intnest := savePcThenSr_intnest s
    exact (crFit_congr (savePcThenSr_product s) _ _).trans (by rw [h])
  handler := enterInterrupt_pc s L V
  flags := savePcThenSr_f s
  kept := kept_enterInterrupt s L V

/-- The byte stores of an entry are those of its frame. -/
theorem enterInterrupt_stores (s : State) (L : BitVec 3) (V : BitVec 24) :
    (s.begun.enterInterrupt L V).stores =
      byteStores s.pcSize ((s.begun.enterInterrupt L V).xsp + 2) (s.pc.setWidth _) ++
        byteStores .W (s.begun.enterInterrupt L V).xsp s.sr := by
  have hx : (s.begun.enterInterrupt L V).xsp = s.xsp - byteCount s.pcSize - 2 :=
    savePcThenSr_xsp s.begun
  rw [hx, BitVec.sub_add_cancel]
  exact savePcThenSr_stores s.begun

theorem enabled_iff : s.enabled L = true ↔ 1 ≤ L.toNat ∧ s.iff.toNat ≤ L.toNat := by
  simp [State.enabled]

/-- A request that is enabled is taken: the entry is a step of its own. -/
theorem step_of_enabled {later : List Offer} (h : s.offers = .request L V :: later)
    (hL : s.enabled L = true) :
    step s = .next (({ s with offers := later } : State).begun.enterInterrupt L V) := by
  have ha : ({ s with offers := later } : State).accept (.request L V) = some _ := if_pos hL
  simp only [step, h, ha]

/-- A request that is not enabled is dropped, and the core goes on. -/
theorem step_of_not_enabled {later : List Offer} (h : s.offers = .request L V :: later)
    (hL : ¬ s.enabled L = true) : step s = instruction { s with offers := later } := by
  have ha : ({ s with offers := later } : State).accept (.request L V) = none := if_neg hL
  simp only [step, h, ha]

end

/-- Settles O7: the entry of an enabled request, and what becomes of another one. -/
theorem enabledRequestIsTaken : Obligations.EnabledRequestIsTaken := by
  intro s L V later hwf ho
  rw [← enabled_iff]
  refine ⟨fun hL => ⟨_, step_of_enabled ho hL, ?enters, ?stores, rfl, rfl, rfl⟩,
    step_of_not_enabled ho⟩
  case enters => exact enters_enterInterrupt hwf
  case stores => exact enterInterrupt_stores _ L V

end Sys2Proof.Machine
end

section
/-!
LDA: the address itself as the value of a load (41_load.md R103).
-/

namespace Sys2Proof.Machine

/-! ## Writes after a draw -/

theorem setReg_drawn (s : State) (n : Nat) (p : PReg) (v : Word32) :
    (s.drawn n).setReg p v = (s.setReg p v).drawn n := by
  cases p with
  | bank k b => by_cases h : k.toNat < 4 <;> simp [State.setReg, State.drawn, h]
  | fixed j => cases j <;> rfl

theorem setSlot_drawn (s : State) (n : Nat) (sz : Size) (d : Slot) (v : BitVec sz.bits) :
    (s.drawn n).setSlot sz d v = (s.setSlot sz d v).drawn n := by
  simp only [State.setSlot, drawn_reg, setReg_drawn]

theorem setAddrReg_drawn (s : State) (n : Nat) (r : AddrReg) (v : Word32) :
    (s.drawn n).setAddrReg r v = (s.setAddrReg r v).drawn n := by
  unfold State.setAddrReg
  split <;> simp only [drawn_reg, setReg_drawn]

theorem preStep_drawn (s : State) (n : Nat) (e : Eff) :
    (s.drawn n).preStep e = (s.preStep e).drawn n := by
  unfold State.preStep
  split
  · exact setAddrReg_drawn s n _ _
  · rfl

/-! ## LDA -/

section

variable {s : State} {m : MemOp} {e : Eff} {sz : Size} {R : BitVec 3} {d : Slot}

/-- LDA writes the address as a load writes its value, or leaves the mode's register as it is:
because the mode steps none, or because the step is not done (notes/assumptions/26.md). -/
theorem loadAddress_loads_or_sets (he : s.eff m = .next e)
    (hs : e.stepping = .none ∨ s.product.bareStep = .free) (hd : s.shortSlot sz R = .next d) :
    ∃ t, loadAddress sz R m s = .next t ∧ t.f = s.f ∧
      (s.LoadsReg t sz e d (e.addr.setWidth _) nowhere ∨
        s.SetsReg t sz d (e.addr.setWidth _)) := by
  have hf : d.fits sz := shortSlot_fits hd
  rw [loadAddress, hd, addressEff_of_eff he hs, andThen_next, andThen_next]
  cases e.stepped with
  | none => exact ⟨_, rfl, by simp, .inr (setsReg_setSlot hf)⟩
  | some r =>
    by_cases hb : s.freeBit 0 = true
    · refine ⟨_, if_pos hb, by simp, .inl ?_⟩
      rw [preStep_drawn]
      exact loadsReg_of he hf (kept_drawn _ 1) (by simp)
    · refine ⟨_, if_neg hb, by simp, .inr ?_⟩
      rw [setSlot_drawn]
      exact setsReg_of hf (kept_drawn _ 1) (by simp)

/-- Either way the value is the address, and what the mode's register holds is one of two
things. -/
theorem loadAddress_writes (he : s.eff m = .next e)
    (hs : e.stepping = .none ∨ s.product.bareStep = .free) (hd : s.shortSlot sz R = .next d) :
    ∃ t, loadAddress sz R m s = .next t ∧ t.f = s.f ∧ t.pc = s.pc ∧
      s.Kept t (fun p => p = d.reg ∨ e.stepsReg p) nowhere ∧
      (¬ e.stepsReg d.reg → s.Wrote t sz d (e.addr.setWidth _) ∧
        (s.SteppedTo t e ∨ ∀ p, e.stepsReg p → t.reg p = s.reg p)) := by
  obtain ⟨t, ht, hflags, loads | sets⟩ := loadAddress_loads_or_sets he hs hd
  · exact ⟨t, ht, hflags, loads.pc, loads.kept, fun hne => (loads.wrote hne).imp_right .inl⟩
  · refine ⟨t, ht, hflags, sets.pc, sets.kept.widen fun _ => .inl,
      fun hne => ⟨sets.wrote, .inr fun p hp => ?_⟩⟩
    exact sets.kept.registers p fun hpd => hne (hpd ▸ hp)

end

/-- Settles O46: at either size LDA is `loadAddress`. -/
theorem loadAddressForms : Obligations.LoadAddressForms := by
  intro s R m e d he hs
  exact List.forall_iff_forall_mem.mp
    ⟨fun hd => loadAddress_writes he hs hd, fun hd => loadAddress_writes he hs hd⟩

end Sys2Proof.Machine
end

section
/-!
MIRR, EXTZ, EXTS and PAA: a register rewritten from its own value (42_exchange.md R111;
44_arithmetic.md R138, R139, R141).
-/

namespace Sys2Proof.Machine

/-! ## What the four functions compute -/

/-- Reversal puts bit `15 - i` at bit `i`. -/
theorem getLsbD_mirror (x : BitVec 16) {i : Nat} (hi : i < 16) :
    (mirror x).getLsbD i = x.getLsbD (15 - i) := by
  rw [mirror, BitVec.getLsbD_reverse, BitVec.getMsbD, decide_eq_true hi, Bool.true_and]

theorem halfBits_pos (sz : Size) : 0 < sz.bits / 2 := by
  cases sz <;> decide

/-- The lower half stays, and the bits above it are 0. -/
theorem getLsbD_zeroUpper (sz : Size) (x : BitVec sz.bits) {i : Nat} (hi : i < sz.bits) :
    (zeroUpper sz x).getLsbD i = (decide (i < sz.bits / 2) && x.getLsbD i) := by
  rw [zeroUpper, BitVec.getLsbD_setWidth, BitVec.getLsbD_setWidth, decide_eq_true hi,
    Bool.true_and]

/-- The lower half stays, and the bits above it are its top bit. -/
theorem getLsbD_signUpper (sz : Size) (x : BitVec sz.bits) {i : Nat} (hi : i < sz.bits) :
    (signUpper sz x).getLsbD i =
      x.getLsbD (if i < sz.bits / 2 then i else sz.bits / 2 - 1) := by
  have half_getLsbD {j : Nat} (hj : j < sz.bits / 2) :
      (x.setWidth (sz.bits / 2)).getLsbD j = x.getLsbD j := by
    rw [BitVec.getLsbD_setWidth, decide_eq_true hj, Bool.true_and]
  rw [signUpper, BitVec.getLsbD_signExtend, decide_eq_true hi, Bool.true_and]
  split
  case isTrue hlow => exact half_getLsbD hlow
  case isFalse =>
    rw [BitVec.msb_eq_getLsbD_last, half_getLsbD (Nat.sub_one_lt_of_lt (halfBits_pos sz))]

/-- A value is odd just when its bit 0 is set. -/
theorem makeEven_eq {w : Nat} (x : BitVec w) :
    makeEven x = if x.toNat % 2 = 1 then x + 1 else x := by
  simp only [makeEven, BitVec.getLsbD, Nat.testBit_zero, decide_eq_true_eq]

/-! ## The update of a register -/

/-- `updateReg` writes the function of the register's value to that register, and keeps the flags
and the rest. -/
theorem updateReg_setsReg {s : State} {sz : Size} {dst : Out Slot} {d : Slot}
    (hd : dst = .next d) (hf : d.fits sz) (g : BitVec sz.bits → BitVec sz.bits) :
    ∃ t, updateReg sz dst g s = .next t ∧ s.SetsReg t sz d (g (s.slot sz d)) ∧ t.f = s.f :=
  ⟨s.setSlot sz d (g (s.slot sz d)), by rw [updateReg, hd, andThen_next], setsReg_setSlot hf,
    setSlot_f ..⟩

/-- The same for a register operand, with what is known of the function's values. -/
theorem updateReg_regSlot {s : State} {sz : Size} {r : RegOp} {d : Slot}
    (hd : s.regSlot sz r = .next d) (g : BitVec sz.bits → BitVec sz.bits)
    {P : BitVec sz.bits → Prop} (hP : P (g (s.slot sz d))) :
    ∃ t v, updateReg sz (s.regSlot sz r) g s = .next t ∧ s.SetsReg t sz d v ∧
      t.f = s.f ∧ P v := by
  obtain ⟨t, ht, sets, flags⟩ := updateReg_setsReg hd (regSlot_fits hd) g
  exact ⟨t, _, ht, sets, flags, hP⟩

/-- Settles O28: each instruction is `updateReg` with its function, whose bits are given above. -/
theorem extendMirrorAndEvenForms : Obligations.ExtendMirrorAndEvenForms := by
  intro s sz r d
  refine ⟨fun hd => ?mirr, fun hd => ?extz, fun hd => ?exts, fun hd => ?paa⟩
  case mirr => exact updateReg_regSlot hd mirror fun _ => getLsbD_mirror _
  case extz => exact updateReg_regSlot hd (zeroUpper sz) fun _ => getLsbD_zeroUpper sz _
  case exts => exact updateReg_regSlot hd (signUpper sz) fun _ => getLsbD_signUpper sz _
  case paa => exact updateReg_regSlot hd makeEven (makeEven_eq _)

end Sys2Proof.Machine
end

section
/-!
DIV and DIVS as arithmetic: what a quotient and its remainder are, and when there is none
(44_arithmetic.md R144, R145).
-/

namespace Sys2Proof.Machine

/-! ## Unsigned -/

section

variable {w n d : Nat} {x : BitVec (w + w)}

theorem divide_eq_none_iff : divide w n d = none ↔ d = 0 ∨ 2 ^ w ≤ n / d := by
  unfold divide
  split
  case isTrue h => exact iff_of_true rfl h
  case isFalse h => exact iff_of_false nofun h

/-- A quotient that there is, in the lower half, and the remainder in the upper. -/
theorem divide_eq_some (hd : d < 2 ^ w) (h : divide w n d = some x) :
    0 < d ∧ x.toNat % 2 ^ w = n / d ∧ x.toNat / 2 ^ w = n % d := by
  unfold divide at h
  split at h
  case isTrue => cases h
  case isFalse hsome =>
    obtain ⟨hpos, hfits⟩ := not_or.mp hsome
    have hq : n / d < 2 ^ w := Nat.lt_of_not_le hfits
    have hr : n % d < 2 ^ w := (Nat.mod_lt n (Nat.pos_of_ne_zero hpos)).trans hd
    obtain rfl := Option.some.inj h
    rw [toNat_append_add, BitVec.toNat_ofNat, BitVec.toNat_ofNat, Nat.mod_eq_of_lt hq,
      Nat.mod_eq_of_lt hr, Nat.add_mul_mod_self_left, Nat.mod_eq_of_lt hq,
      Nat.add_mul_div_left _ _ (Nat.two_pow_pos w), Nat.div_eq_of_lt hq, Nat.zero_add]
    exact ⟨Nat.pos_of_ne_zero hpos, rfl, rfl⟩

end

/-! ## Signed -/

section

variable {w : Nat} {n d : Int} {x : BitVec (w + w)}

theorem divideSigned_eq_none_iff :
    divideSigned w n d = none ↔
      d = 0 ∨ n.tdiv d < -2 ^ (w - 1) ∨ 2 ^ (w - 1) ≤ n.tdiv d := by
  have hle : n.tdiv d > 2 ^ (w - 1) - 1 ↔ (2 : Int) ^ (w - 1) ≤ n.tdiv d := Int.sub_one_lt_iff
  unfold divideSigned
  by_cases hd : d = 0
  · exact iff_of_true (if_pos hd) (.inl hd)
  · simp only [hd, if_false, false_or, hle, ite_eq_left_iff, reduceCtorEq, imp_false, not_not]

/-- A remainder of a divisor of `w` bits has `w` bits. -/
theorem tmod_fits (n : Int) (hd : d ≠ 0) (hlow : -2 ^ (w - 1) ≤ d) (hhigh : d < 2 ^ (w - 1)) :
    -2 ^ (w - 1) ≤ n.tmod d ∧ n.tmod d < 2 ^ (w - 1) := by
  have hlt : (n.tmod d).natAbs < d.natAbs := by
    rw [Int.natAbs_tmod]
    exact Nat.mod_lt _ (Int.natAbs_pos.mpr hd)
  generalize (2 : Int) ^ (w - 1) = half at hlow hhigh ⊢
  omega

/-- A quotient that there is, in the lower half, and the remainder in the upper. -/
theorem divideSigned_eq_some (hw : 0 < w) (hlow : -2 ^ (w - 1) ≤ d) (hhigh : d < 2 ^ (w - 1))
    (h : divideSigned w n d = some x) :
    d ≠ 0 ∧ (x.setWidth w).toInt = n.tdiv d ∧ (x.extractLsb' w w).toInt = n.tmod d := by
  have hsome : ¬ divideSigned w n d = none := by
    rw [h]
    exact Option.some_ne_none x
  rw [divideSigned_eq_none_iff] at hsome
  simp only [not_or, not_lt, not_le] at hsome
  obtain ⟨hd, hq⟩ := hsome
  have hr : n - n.tdiv d * d = n.tmod d := by rw [Int.tmod_def, Int.mul_comm]
  have hrem := tmod_fits n hd hlow hhigh
  have hx : x = BitVec.ofInt w (n.tmod d) ++ BitVec.ofInt w (n.tdiv d) := by
    have hfits : ¬ (n.tdiv d < -(2 ^ (w - 1) : Int) ∨ n.tdiv d > 2 ^ (w - 1) - 1) := by omega
    rw [divideSigned, if_neg hd, if_neg hfits, hr] at h
    exact (Option.some.inj h).symm
  rw [hx, BitVec.setWidth_append_eq_right, BitVec.extractLsb'_append_eq_left,
    BitVec.toInt_ofInt_eq_self hw hq.1 hq.2, BitVec.toInt_ofInt_eq_self hw hrem.1 hrem.2]
  exact ⟨hd, rfl, rfl⟩

end

/-! ## At an operand size -/

section

variable {sz : Size} {n : BitVec sz.double.bits} {d : BitVec sz.bits}

theorem double_bits (h : sz ≠ .L) : sz.double.bits = sz.bits + sz.bits := by
  cases sz with
  | B | W => rfl
  | L => exact absurd rfl h

/-- A quotient that there is comes from `divide`, as it is. -/
theorem quotient_unsigned_eq_some (h : sz ≠ .L) {q : BitVec sz.double.bits}
    (hq : quotient false sz n d = some q) :
    ∃ x, divide sz.bits n.toNat d.toNat = some x ∧ q.toNat = x.toNat := by
  obtain ⟨x, hx, rfl⟩ := Option.map_eq_some_iff.mp hq
  exact ⟨x, hx, BitVec.toNat_setWidth_of_le (double_bits h).ge⟩

/-- A signed quotient that there is has the two halves of `divideSigned`. -/
theorem quotient_signed_eq_some (h : sz ≠ .L) {q : BitVec sz.double.bits}
    (hq : quotient true sz n d = some q) :
    ∃ x, divideSigned sz.bits n.toInt d.toInt = some x ∧
      q.setWidth sz.bits = x.setWidth sz.bits ∧
      q.extractLsb' sz.bits sz.bits = x.extractLsb' sz.bits sz.bits := by
  obtain ⟨x, hx, rfl⟩ := Option.map_eq_some_iff.mp hq
  have hle : sz.bits + sz.bits ≤ sz.double.bits := (double_bits h).ge
  exact ⟨x, hx, BitVec.setWidth_setWidth_of_le x ((Nat.le_add_right _ _).trans hle),
    BitVec.extractLsb'_setWidth_of_le hle⟩

end

/-- Settles O25: the quotients are those of `Nat` and, truncating, of `Int`, and their laws are
the division laws. -/
theorem divisionGivesQuotientAndRemainder : Obligations.DivisionGivesQuotientAndRemainder := by
  intro sz n d h
  refine ⟨?none, fun q hq => ?some, ?noneSigned, fun q hq => ?someSigned⟩
  case none =>
    have hd : d = 0 ↔ d.toNat = 0 := by simp [BitVec.toNat_eq]
    rw [hd]
    exact Option.map_eq_none_iff.trans divide_eq_none_iff
  case some =>
    obtain ⟨x, hx, hqx⟩ := quotient_unsigned_eq_some h hq
    obtain ⟨hpos, hquo, hrem⟩ := divide_eq_some d.isLt hx
    rw [hqx, hquo, hrem]
    exact ⟨Nat.div_add_mod' .., Nat.mod_lt _ hpos⟩
  case noneSigned =>
    have hd : d = 0 ↔ d.toInt = 0 := by simp [← BitVec.toInt_inj]
    rw [hd]
    exact Option.map_eq_none_iff.trans divideSigned_eq_none_iff
  case someSigned =>
    obtain ⟨x, hx, hlow, hhigh⟩ := quotient_signed_eq_some h hq
    have hw : 0 < sz.bits := by cases sz <;> decide
    obtain ⟨hd, hquo, hrem⟩ := divideSigned_eq_some hw d.le_toInt BitVec.toInt_lt hx
    simp only [hlow, hhigh, hquo, hrem]
    refine ⟨Int.tdiv_mul_add_tmod .., ?_, ?_⟩
    · rw [Int.natAbs_tmod]
      exact Nat.mod_lt _ (Int.natAbs_pos.mpr hd)
    · rw [Int.sign_tmod]
      split
      case isTrue hdvd => exact .inl (Int.tmod_eq_zero_of_dvd hdvd)
      case isFalse => exact .inr rfl

end Sys2Proof.Machine
end

section
/-!
DAA: what it completes (44_arithmetic.md R140).
-/

namespace Sys2Proof.Machine

/-- A number below 100 in BCD: its tens in the upper digit, its units in the lower. -/
def bcdByte (k : Nat) : BitVec 8 := BitVec.ofNat 8 (16 * (k / 10) + k % 10)

theorem bcdByte_toNat {k : Nat} (h : k < 100) : (bcdByte k).toNat = 16 * (k / 10) + k % 10 := by
  rw [bcdByte, BitVec.toNat_ofNat]
  omega

/-! ## The adjustment -/

/-- After an addition DAA adds 6 in each digit that has passed 9: the lower one by itself, the
upper one also where the correction of the lower one carries into it. -/
theorem decimalAdjust_of_add (v : BitVec 8) {f : Flags} (hn : f.n = false) :
    (decimalAdjust v f).1.toNat =
      (v.toNat + (if f.h = true ∨ 9 < v.toNat % 16 then 0x06 else 0) +
        (if (decimalAdjust v f).2.c = true then 0x60 else 0)) % 2 ^ 8 ∧
    ((decimalAdjust v f).2.c = true ↔
      f.c = true ∨ 9 < v.toNat / 16 ∨ (9 ≤ v.toNat / 16 ∧ 9 < v.toNat % 16)) := by
  simp only [decimalAdjust, hn, Bool.false_eq_true, if_false, BitVec.toNat_add,
    Bool.or_eq_true, Bool.and_eq_true, decide_eq_true_eq, or_assoc]
  refine ⟨?_, trivial⟩
  split_ifs <;> simp [Nat.add_assoc]

/-- After a subtraction DAA takes 6 from each digit that has borrowed. -/
theorem decimalAdjust_of_sub (v : BitVec 8) {f : Flags} (hn : f.n = true) :
    (decimalAdjust v f).1.toNat =
      (v.toNat + (if f.h = true then 0xFA else 0) + (if f.c = true then 0xA0 else 0)) % 2 ^ 8 ∧
    (decimalAdjust v f).2.c = f.c := by
  simp only [decimalAdjust, hn, if_true, BitVec.toNat_add]
  refine ⟨?_, trivial⟩
  split_ifs <;> simp
  -- both digits have borrowed
  omega

/-! ## Sums and differences of digits

`t` and `u` are the tens and the units of a sum before any carry, or of a difference to which
90 and 10 are added so that no digit is below 0. -/

/-- The units carry `u / 10` into the tens. -/
theorem digits_mod_hundred (t u : Nat) :
    16 * ((10 * t + u) % 100 / 10) + (10 * t + u) % 100 % 10 =
      16 * ((t + u / 10) % 10) + u % 10 := by
  omega

section

variable {t u : Nat} (ht : t ≤ 18) (hu : u ≤ 19)

include ht hu

/-- The decimal carry, as DAA sees it in the binary sum. -/
theorem bcdSum_carry :
    (2 ^ 8 ≤ 16 * t + u ∨ 9 < (16 * t + u) % 2 ^ 8 / 16 ∨
      (9 ≤ (16 * t + u) % 2 ^ 8 / 16 ∧ 9 < (16 * t + u) % 2 ^ 8 % 16)) ↔
    100 ≤ 10 * t + u := by
  by_cases hfull : 2 ^ 8 ≤ 16 * t + u
  · omega
  · rw [Nat.mod_eq_of_lt (by omega)]
    by_cases hhalf : u ≤ 15 <;> omega

/-- Each carry out of a digit takes a 6. -/
theorem bcdSum_value :
    ((16 * t + u) % 2 ^ 8 + (if 15 < u ∨ 9 < (16 * t + u) % 2 ^ 8 % 16 then 0x06 else 0) +
      (if 100 ≤ 10 * t + u then 0x60 else 0)) % 2 ^ 8 =
    16 * ((10 * t + u) % 100 / 10) + (10 * t + u) % 100 % 10 := by
  have hlow : (if 15 < u ∨ 9 < (16 * t + u) % 2 ^ 8 % 16 then 0x06 else 0) = 6 * (u / 10) := by
    split_ifs <;> omega
  have hhigh : (if 100 ≤ 10 * t + u then 0x60 else 0) = 0x60 * ((t + u / 10) / 10) := by
    split_ifs <;> omega
  rw [hlow, hhigh, digits_mod_hundred]
  omega

/-- Each borrow gives back a 6. -/
theorem bcdDifference_value :
    ((16 * t + u + 102) % 2 ^ 8 + (if u < 10 then 0xFA else 0) +
      (if 10 * t + u < 100 then 0xA0 else 0)) % 2 ^ 8 =
    16 * ((10 * t + u) % 100 / 10) + (10 * t + u) % 100 % 10 := by
  have hlow : (if u < 10 then 0xFA else 0) = 0xFA * (1 - u / 10) := by
    split_ifs <;> omega
  have hhigh : (if 10 * t + u < 100 then 0xA0 else 0) = 0xA0 * (1 - (t + u / 10) / 10) := by
    split_ifs <;> omega
  rw [hlow, hhigh, digits_mod_hundred]
  omega

variable {v : BitVec 8} {f : Flags}

theorem decimalAdjust_digitSum (hn : f.n = false) (hv : v.toNat = (16 * t + u) % 2 ^ 8)
    (hh : f.h = true ↔ 15 < u) (hc : f.c = true ↔ 2 ^ 8 ≤ 16 * t + u) :
    (decimalAdjust v f).1 = bcdByte ((10 * t + u) % 100) ∧
      (decimalAdjust v f).2.c = decide (100 ≤ 10 * t + u) := by
  obtain ⟨hvalue, hcarry⟩ := decimalAdjust_of_add v hn
  rw [hv, hc, bcdSum_carry ht hu] at hcarry
  simp only [hcarry, hv, hh, bcdSum_value ht hu] at hvalue
  refine ⟨BitVec.eq_of_toNat_eq ?_, Bool.eq_iff_iff.mpr ?_⟩
  · rw [hvalue, bcdByte_toNat (Nat.mod_lt _ (by decide))]
  · rw [hcarry, decide_eq_true_eq]

theorem decimalAdjust_digitDifference (hn : f.n = true)
    (hv : v.toNat = (16 * t + u + 102) % 2 ^ 8) (hh : f.h = true ↔ u < 10)
    (hc : f.c = true ↔ 10 * t + u < 100) :
    (decimalAdjust v f).1 = bcdByte ((10 * t + u) % 100) ∧
      (decimalAdjust v f).2.c = decide (10 * t + u < 100) := by
  obtain ⟨hvalue, hcarry⟩ := decimalAdjust_of_sub v hn
  simp only [hv, hh, hc, bcdDifference_value ht hu] at hvalue
  refine ⟨BitVec.eq_of_toNat_eq ?_, Bool.eq_iff_iff.mpr ?_⟩
  · rw [hvalue, bcdByte_toNat (Nat.mod_lt _ (by decide))]
  · rw [hcarry, hc, decide_eq_true_eq]

end

/-! ## Addition and subtraction of two numbers in BCD -/

section

variable {x y : Nat} (cin free : Bool) (hx : x < 100) (hy : y < 100)

include hx hy

/-- The binary sum of two numbers in BCD adds them digit by digit. -/
theorem decimalAdjust_addFlags :
    let sum := addFlags (bcdByte x) (bcdByte y) cin false free
    let p := decimalAdjust sum.1 sum.2
    p.1 = bcdByte ((x + y + cin.toNat) % 100) ∧ p.2.c = decide (100 ≤ x + y + cin.toNat) := by
  have hcin := cin.toNat_le
  obtain ⟨t, ht⟩ : ∃ t, t = x / 10 + y / 10 := ⟨_, rfl⟩
  obtain ⟨u, hu⟩ : ∃ u, u = x % 10 + y % 10 + cin.toNat := ⟨_, rfl⟩
  have hxy : x + y + cin.toNat = 10 * t + u := by omega
  rw [hxy]
  refine decimalAdjust_digitSum (by omega) (by omega) rfl ?value ?half ?full
  case value =>
    simp only [addFlags, BitVec.toNat_ofNat, bcdByte_toNat hx, bcdByte_toNat hy]
    omega
  case half =>
    simp only [addFlags, Bool.false_eq_true, if_false, decide_eq_true_eq, bcdByte_toNat hx,
      bcdByte_toNat hy]
    omega
  case full =>
    simp only [addFlags, decide_eq_true_eq, bcdByte_toNat hx, bcdByte_toNat hy]
    omega

/-- The binary difference of two numbers in BCD subtracts them digit by digit. -/
theorem decimalAdjust_subFlags :
    let diff := subFlags (bcdByte x) (bcdByte y) cin false free
    let q := decimalAdjust diff.1 diff.2
    q.1 = bcdByte ((x + 100 - y - cin.toNat) % 100) ∧ q.2.c = decide (x < y + cin.toNat) := by
  have hcin := cin.toNat_le
  obtain ⟨t, ht⟩ : ∃ t, t = 9 + x / 10 - y / 10 := ⟨_, rfl⟩
  obtain ⟨u, hu⟩ : ∃ u, u = 10 + x % 10 - y % 10 - cin.toNat := ⟨_, rfl⟩
  have hxy : x + 100 - y - cin.toNat = 10 * t + u := by omega
  have hborrow : x < y + cin.toNat ↔ 10 * t + u < 100 := by omega
  rw [hxy, decide_eq_decide.mpr hborrow]
  refine decimalAdjust_digitDifference (by omega) (by omega) rfl ?value ?half ?full
  case value =>
    simp only [subFlags, BitVec.toNat_sub, BitVec.toNat_ofNat, bcdByte_toNat hx,
      bcdByte_toNat hy]
    omega
  case half =>
    simp only [subFlags, Bool.false_eq_true, if_false, decide_eq_true_eq, bcdByte_toNat hx,
      bcdByte_toNat hy]
    omega
  case full =>
    simp only [subFlags, decide_eq_true_eq, bcdByte_toNat hx, bcdByte_toNat hy]
    omega

end

/-- Settles O26: the value and the carry digit by digit; S, Z, V and N are as DAA defines them. -/
theorem decimalAdjustCompletesBcd : Obligations.DecimalAdjustCompletesBcd := by
  intro x y cin free hx hy
  obtain ⟨sumValue, sumCarry⟩ := decimalAdjust_addFlags cin free hx hy
  obtain ⟨diffValue, diffCarry⟩ := decimalAdjust_subFlags cin free hx hy
  exact ⟨sumValue, sumCarry, diffValue, diffCarry,
    List.forall_iff_forall_mem.mp ⟨⟨rfl, rfl, rfl⟩, rfl, rfl, rfl⟩, rfl, rfl⟩

end Sys2Proof.Machine
end

section
/-!
MINC and MDEC: counting within a table of a power of two bytes (44_arithmetic.md R147 to R152).
-/

namespace Sys2Proof.Machine

/-! ## What the two functions compute -/

/-- Where a multiple `a` of the step is: its table ends within `M`, a whole number of steps is
left after it, and it is the first place or at least one step behind it. -/
theorem table_place {a step num M : Nat} (hnum : num ∣ M) (hstep : step ∣ num)
    (hv : step ∣ a) (ha : a < M) :
    a - a % num + num ≤ M ∧ a % num + step ≤ num ∧ (a % num = 0 ∨ step ≤ a % num) := by
  have hpos : 0 < num := Nat.pos_of_dvd_of_pos hnum (Nat.zero_lt_of_lt ha)
  have hlt : a % num < num := Nat.mod_lt a hpos
  have hplace : step ∣ a % num := (Nat.dvd_mod_iff hstep).mpr hv
  have hend : num ≤ M - (a - a % num) :=
    Nat.le_of_dvd (by omega) (Nat.dvd_sub hnum (Nat.dvd_sub_mod a))
  have hafter : step ≤ num - a % num := Nat.le_of_dvd (by omega) (Nat.dvd_sub hstep hplace)
  have hle : a % num ≤ a := Nat.mod_le a num
  refine ⟨by omega, by omega, ?_⟩
  rcases Nat.eq_zero_or_pos (a % num) with h0 | hpos
  · exact .inl h0
  · exact .inr (Nat.le_of_dvd hpos hplace)

section

variable {imm v : BitVec 16} {step num : Nat} (hnum : num ∣ 2 ^ 16) (hstep : step ∣ num)
  (hpos : 0 < step) (himm : imm.toNat + step = num) (hv : step ∣ v.toNat)

include hnum hstep hpos himm hv

/-- From the last place of a table the count goes back to its first. -/
theorem toNat_moduloUp :
    (moduloUp step imm v).toNat = v.toNat - v.toNat % num + (v.toNat + step) % num := by
  obtain ⟨hend, hafter, -⟩ := table_place hnum hstep hv v.isLt
  have hle : v.toNat % num ≤ v.toNat := Nat.mod_le ..
  rw [moduloUp, himm, ← Nat.mod_add_mod v.toNat]
  split
  case isTrue hlast =>
    rw [BitVec.toNat_sub_of_le (BitVec.le_def.mpr (hlast ▸ hle)), hlast, himm, Nat.mod_self,
      Nat.add_zero]
  case isFalse hother =>
    rw [Nat.mod_eq_of_lt (show v.toNat % num + step < num by omega), BitVec.toNat_add,
      BitVec.toNat_ofNat]
    omega

/-- From the first place of a table the count goes on to its last. -/
theorem toNat_moduloDown :
    (moduloDown step imm v).toNat = v.toNat - v.toNat % num + (v.toNat + num - step) % num := by
  obtain ⟨hend, hafter, hbefore⟩ := table_place hnum hstep hv v.isLt
  have hle : v.toNat % num ≤ v.toNat := Nat.mod_le ..
  have hmod : (v.toNat + num - step) % num = (v.toNat % num + (num - step)) % num := by
    rw [Nat.mod_add_mod, Nat.add_sub_assoc (by omega)]
  rw [moduloDown, himm, hmod]
  split
  case isTrue hfirst =>
    rw [hfirst, Nat.zero_add, Nat.mod_eq_of_lt (show num - step < num by omega),
      BitVec.toNat_add]
    omega
  case isFalse hother =>
    have hback : v.toNat % num + (num - step) = v.toNat % num - step + num := by omega
    rw [hback, Nat.add_mod_right,
      Nat.mod_eq_of_lt (show v.toNat % num - step < num by omega), BitVec.toNat_sub,
      BitVec.toNat_ofNat]
    omega

end

/-! ## The instructions -/

section

variable {s : State} {r : RegOp} {d : Slot} {imm : BitVec 16} {k step : Nat} (hk : k ≤ 15)
  (hd : s.regSlot .W r = .next d) (hstep : step ∣ 2 ^ k) (himm : imm.toNat + step = 2 ^ k)
  (hv : (s.slot .W d).toNat % step = 0)

include hk hd hstep himm hv

theorem updateReg_moduloUp :
    ∃ t u, updateReg .W (s.regSlot .W r) (moduloUp step imm) s = .next t ∧ s.SetsReg t .W d u ∧
      t.f = s.f ∧ u.toNat = (s.slot .W d).toNat - (s.slot .W d).toNat % 2 ^ k +
        ((s.slot .W d).toNat + step) % 2 ^ k :=
  updateReg_regSlot hd _ (toNat_moduloUp (Nat.pow_dvd_pow 2 (by omega)) hstep
    (Nat.pos_of_dvd_of_pos hstep (Nat.two_pow_pos k)) himm (Nat.dvd_of_mod_eq_zero hv))

theorem updateReg_moduloDown :
    ∃ t u, updateReg .W (s.regSlot .W r) (moduloDown step imm) s = .next t ∧
      s.SetsReg t .W d u ∧ t.f = s.f ∧
      u.toNat = (s.slot .W d).toNat - (s.slot .W d).toNat % 2 ^ k +
        ((s.slot .W d).toNat + 2 ^ k - step) % 2 ^ k :=
  updateReg_regSlot hd _ (toNat_moduloDown (Nat.pow_dvd_pow 2 (by omega)) hstep
    (Nat.pos_of_dvd_of_pos hstep (Nat.two_pow_pos k)) himm (Nat.dvd_of_mod_eq_zero hv))

end

/-- Settles O29: each instruction is `updateReg` with its function, and its step divides the
table. -/
theorem moduloCountersStayInTheirTable : Obligations.ModuloCountersStayInTheirTable := by
  intro s r d imm k hk hd v
  have one_dvd_table (_ : 1 ≤ k) : 1 ∣ 2 ^ k := one_dvd _
  have two_dvd_table (h : 2 ≤ k) : 2 ∣ 2 ^ k := Nat.pow_dvd_pow 2 (show 1 ≤ k by omega)
  have four_dvd_table (h : 3 ≤ k) : 4 ∣ 2 ^ k := Nat.pow_dvd_pow 2 (show 2 ≤ k by omega)
  exact ⟨List.forall_iff_forall_mem.mp
      ⟨fun h => updateReg_moduloUp hk hd (one_dvd_table h),
        fun h => updateReg_moduloUp hk hd (two_dvd_table h),
        fun h => updateReg_moduloUp hk hd (four_dvd_table h)⟩,
    List.forall_iff_forall_mem.mp
      ⟨fun h => updateReg_moduloDown hk hd (one_dvd_table h),
        fun h => updateReg_moduloDown hk hd (two_dvd_table h),
        fun h => updateReg_moduloDown hk hd (four_dvd_table h)⟩⟩

end Sys2Proof.Machine
end

section
/-!
The register forms of the two-operand operations, INC and DEC, NEG, CPL and DAA
(44_arithmetic.md R130 to R137, R140, R153; 45_logical.md R160 to R163).
-/

namespace Sys2Proof.Machine

/-! ## Writes with flags -/

section

variable {s : State} {sz : Size} {d : Slot} {v : BitVec sz.bits}

/-- A write of a part, the flags after it. -/
theorem setsReg_withFlags (hf : d.fits sz) (g : Flags) :
    s.SetsReg { s.setSlot sz d v with f := g } sz d v :=
  setsReg_of hf (kept_withFlags _ _) (by simp)

/-- A write of a part, the flags and draws after it. -/
theorem setsReg_withFlags_drawn (hf : d.fits sz) (g : Flags) (n : Nat) :
    s.SetsReg ({ s.setSlot sz d v with f := g }.drawn n) sz d v :=
  setsReg_of hf ((kept_withFlags _ _).trans (kept_drawn _ _)) (by simp)

end

/-! ## The two-operand operations -/

/-- From `s` to `t` the result and the flags `x` of an operation are taken over: CP writes no
register. -/
def State.AluSets (s t : State) (op : AluOp) (sz : Size) (d : Slot)
    (x : BitVec sz.bits × Flags) : Prop :=
  t.f = x.2 ∧ (op ≠ .cp → s.SetsReg t sz d x.1) ∧
    (op = .cp → s.Kept t noReg nowhere ∧ t.pc = s.pc)

section

variable {s : State} {op : AluOp} {sz : Size} {dst src : Out Slot} {d a : Slot}

theorem aluSlot_aluSets (hf : d.fits sz) (b : BitVec sz.bits) :
    s.AluSets (s.aluSlot op sz d b) op sz d (s.aluResult op sz (s.slot sz d) b) := by
  refine ⟨rfl, fun hop => ?writes, fun hop => ?compares⟩
  case writes =>
    rw [State.aluSlot, if_neg hop]
    exact setsReg_withFlags_drawn hf _ 1
  case compares =>
    rw [State.aluSlot, if_pos hop]
    exact ⟨(kept_withFlags s _).trans (kept_drawn _ _), rfl⟩

theorem aluReg_aluSets (hd : dst = .next d) (ha : src = .next a) (hf : d.fits sz) :
    ∃ t, aluReg op sz dst src s = .next t ∧
      s.AluSets t op sz d (s.aluResult op sz (s.slot sz d) (s.slot sz a)) :=
  ⟨_, by rw [aluReg, hd, ha, andThen_next, andThen_next], aluSlot_aluSets hf _⟩

theorem aluImm_aluSets (hd : dst = .next d) (hf : d.fits sz) (imm : BitVec sz.bits) :
    ∃ t, aluImm op sz dst imm s = .next t ∧
      s.AluSets t op sz d (s.aluResult op sz (s.slot sz d) imm) :=
  ⟨_, by rw [aluImm, hd, andThen_next], aluSlot_aluSets hf _⟩

theorem exec_aluRegReg (op : AluOp) (sz : Size) (R : BitVec 3) (r : RegOp) (s : State) :
    exec (op.regReg sz R r) s = aluReg op sz (s.shortSlot sz R) (s.regSlot sz r) s := by
  cases op <;> rfl

theorem exec_aluRegImm (op : AluOp) (sz : Size) (r : RegOp) (imm : BitVec sz.bits) (s : State) :
    exec (op.regImm sz r imm) s = aluImm op sz (s.regSlot sz r) imm s := by
  cases op <;> rfl

end

/-- Settles O31: every form is `aluReg` or `aluImm` of its operation. -/
theorem aluRegisterForms : Obligations.AluRegisterForms := by
  intro s op sz R r d a
  refine ⟨fun hd ha => ?regReg, fun imm hd => ?regImm, fun n hd => ?number⟩
  case regReg =>
    rw [exec_aluRegReg]
    exact aluReg_aluSets hd ha (shortSlot_fits hd)
  case regImm =>
    rw [exec_aluRegImm]
    exact aluImm_aluSets hd (regSlot_fits hd) imm
  case number =>
    rw [BitVec.ofNat_toNat]
    obtain ⟨t, ht, flags, -, compares⟩ :=
      aluImm_aluSets (s := s) (op := .cp) hd (regSlot_fits hd) (n.setWidth _)
    exact ⟨t, ht, flags, compares rfl⟩

/-! ## INC and DEC -/

section

variable {s : State} {op : AluOp} {sz : Size} {n : BitVec 3} {dst : Out Slot} {d : Slot}

theorem stepCount_eq (n : BitVec 3) : stepCount n = if n = 0 then 8 else n.toNat := by
  have h : n.toNat = 0 ↔ n = 0 := by simp [BitVec.toNat_eq]
  simp only [stepCount, h]

/-- `reg op= count`: the flags but C are taken over by a byte register only. -/
theorem countReg_setsReg (hd : dst = .next d) (hf : d.fits sz) :
    let x := s.aluResult op sz (s.slot sz d) (BitVec.ofNat _ (if n = 0 then 8 else n.toNat))
    ∃ t, countReg op sz n dst s = .next t ∧ s.SetsReg t sz d x.1 ∧
      t.f = if sz = .B then { x.2 with c := s.f.c } else s.f := by
  rw [countReg, hd, andThen_next, stepCount_eq]
  by_cases hsz : sz = .B
  · exact ⟨_, rfl, by simpa only [if_pos hsz] using setsReg_withFlags hf _, by simp [hsz]⟩
  · exact ⟨_, rfl, by simpa only [if_neg hsz] using setsReg_setSlot hf, by simp [hsz]⟩

/-- `(mem) op= count`: the flags but C at either size. -/
theorem countMem_setsMem {m : MemOp} {e : Eff} (hwf : Memory.wf s.mem = true)
    (he : s.eff m = .next e) :
    let x := (s.preStep e).aluResult op sz ((s.preStep e).memRead sz e.addr)
      (BitVec.ofNat _ (if n = 0 then 8 else n.toNat))
    ∃ t, countMem op sz n m s = .next t ∧ s.SetsMem t sz e x.1 ∧
      t.f = { x.2 with c := s.f.c } := by
  rw [← stepCount_eq]
  exact ⟨_, withMem_of_eff _ he, setsMem_of he hwf (kept_withFlags _ _) (by simp), by simp⟩

theorem preStep_freeBit (s : State) (e : Eff) (i : Nat) :
    (s.preStep e).freeBit i = s.freeBit i := by
  simp [State.freeBit]

end

/-- Settles O33: INC and DEC are the additions and the subtractions of their counts. -/
theorem incrementAndDecrementForms : Obligations.IncrementAndDecrementForms := by
  intro s sz n k long
  refine List.forall_iff_forall_mem.mp
    ⟨⟨fun r d hd => ?incReg, fun m e hwf he => ?incMem⟩,
      fun r d hd => ?decReg, fun m e hwf he => ?decMem⟩
  case incReg => exact countReg_setsReg (op := .add) hd (regSlot_fits hd)
  case decReg => exact countReg_setsReg (op := .sub) hd (regSlot_fits hd)
  case incMem =>
    rw [← preStep_freeBit s e]
    exact countMem_setsMem (op := .add) hwf he
  case decMem =>
    rw [← preStep_freeBit s e]
    exact countMem_setsMem (op := .sub) hwf he

/-! ## NEG, CPL and DAA -/

section

variable {s : State} {sz : Size} {dst : Out Slot} {d : Slot} (hd : dst = .next d)

include hd

theorem negate_setsReg (hf : d.fits sz) :
    let x := s.aluResult .sub sz 0 (s.slot sz d)
    ∃ t, negate sz dst s = .next t ∧ s.SetsReg t sz d x.1 ∧ t.f = x.2 :=
  ⟨_, by rw [negate, hd, andThen_next], setsReg_withFlags hf _, rfl⟩

theorem complement_setsReg (hf : d.fits sz) :
    ∃ t, complement sz dst s = .next t ∧ s.SetsReg t sz d (~~~ s.slot sz d) ∧
      t.f = { s.f with h := true, n := true } :=
  ⟨_, by rw [complement, hd, andThen_next], setsReg_withFlags hf _, rfl⟩

theorem adjustReg_setsReg (hf : d.fits .B) :
    let x := decimalAdjust (s.slot .B d) s.f
    ∃ t, adjustReg dst s = .next t ∧ s.SetsReg t .B d x.1 ∧ t.f = x.2 :=
  ⟨_, by rw [adjustReg, hd, andThen_next], setsReg_withFlags hf _, rfl⟩

end

/-- Settles O34: each writes its register and then the flags. -/
theorem negateComplementAndAdjustForms : Obligations.NegateComplementAndAdjustForms := by
  intro s sz r d
  exact ⟨fun hd => negate_setsReg hd (regSlot_fits hd),
    fun hd => complement_setsReg hd (regSlot_fits hd),
    fun hd => adjustReg_setsReg hd (regSlot_fits hd)⟩

end Sys2Proof.Machine
end

section
/-!
The forms of MUL, MULS, DIV and DIVS, and MULA (44_arithmetic.md R142 to R146).
-/

namespace Sys2Proof.Machine

/-! ## MUL and MULS -/

section

variable {s : State} {signed : Bool} {sz : Size} {dst src : Out Slot} {d a : Slot}

theorem product_unsigned (x y : BitVec sz.bits) :
    product false sz x y = BitVec.ofInt _ ((x.toNat : Int) * y.toNat) := by
  rw [← Int.natCast_mul, BitVec.ofInt_natCast]
  rfl

theorem multiplyReg_setsReg (hd : dst = .next d) (ha : src = .next a) (hf : d.fits sz.double) :
    ∃ t, multiplyReg signed sz dst src s = .next t ∧ t.f = s.f ∧
      s.SetsReg t sz.double d (product signed sz (s.slot sz d) (s.slot sz a)) :=
  ⟨_, by rw [multiplyReg, hd, ha, andThen_next, andThen_next], by simp, setsReg_setSlot hf⟩

theorem multiplyImm_setsReg (hd : dst = .next d) (hf : d.fits sz.double)
    (imm : BitVec sz.bits) :
    ∃ t, multiplyImm signed sz dst imm s = .next t ∧ t.f = s.f ∧
      s.SetsReg t sz.double d (product signed sz (s.slot sz d) imm) :=
  ⟨_, by rw [multiplyImm, hd, andThen_next], by simp, setsReg_setSlot hf⟩

theorem multiplyMem_loadsReg {m : MemOp} {e : Eff} (hd : dst = .next d) (hf : d.fits sz.double)
    (he : s.eff m = .next e) :
    ∃ t, multiplyMem signed sz dst m s = .next t ∧ t.f = s.f ∧
      s.LoadsReg t sz.double e d
        (product signed sz ((s.preStep e).slot sz d) ((s.preStep e).memRead sz e.addr)) nowhere :=
  ⟨_, by rw [multiplyMem, hd, andThen_next, withMem_of_eff _ he], by simp,
    loadsReg_of he hf (State.Kept.refl _) (by simp)⟩

end

/-- Settles O41: the three forms with the unsigned and with the signed product. -/
theorem multiplyForms : Obligations.MultiplyForms := by
  intro s sz R r d a _
  refine List.forall_iff_forall_mem.mp
    ⟨⟨fun hd ha => ?mulReg, fun imm hd => ?mulImm, fun m e hd he => ?mulMem⟩,
      fun hd ha => ?mulsReg, fun imm hd => ?mulsImm, fun m e hd he => ?mulsMem⟩
  case mulReg =>
    rw [← product_unsigned]
    exact multiplyReg_setsReg hd ha (shortDouble_fits hd)
  case mulImm =>
    rw [← product_unsigned]
    exact multiplyImm_setsReg hd (regDouble_fits hd) imm
  case mulMem =>
    rw [← product_unsigned]
    exact multiplyMem_loadsReg hd (shortDouble_fits hd) he
  case mulsReg => exact multiplyReg_setsReg (signed := true) hd ha (shortDouble_fits hd)
  case mulsImm => exact multiplyImm_setsReg (signed := true) hd (regDouble_fits hd) imm
  case mulsMem => exact multiplyMem_loadsReg (signed := true) hd (shortDouble_fits hd) he

/-! ## DIV and DIVS -/

/-- From `s` to `t` V says whether there is no quotient, and the destination holds `y`, which is
the quotient `x` where there is one. -/
def State.DivideEnds {w : Nat} (s t : State) (x : Option (BitVec w)) (y : BitVec w) : Prop :=
  t.f = { s.f with v := x.isNone } ∧ ∀ v, x = some v → y = v

section

variable {s : State} {signed : Bool} {sz : Size} {dst src : Out Slot} {d a : Slot}

/-- What a division writes is the quotient where there is one, and V says there is none. -/
theorem divideResult_ends (s : State) (signed : Bool) (sz : Size) (n : BitVec sz.double.bits)
    (b : BitVec sz.bits) {t u : State}
    (h : t.f = { u.f with v := (s.divideResult signed sz n b).2 }) :
    u.DivideEnds t (quotient signed sz n b) (s.divideResult signed sz n b).1 := by
  rw [State.DivideEnds, h, State.divideResult]
  cases quotient signed sz n b with
  | none => exact ⟨rfl, nofun⟩
  | some q => exact ⟨rfl, fun v hv => Option.some.inj hv⟩

theorem divideReg_ends (hd : dst = .next d) (ha : src = .next a) (hf : d.fits sz.double) :
    ∃ t y, divideReg signed sz dst src s = .next t ∧ s.SetsReg t sz.double d y ∧
      s.DivideEnds t (quotient signed sz (s.slot sz.double d) (s.slot sz a)) y :=
  ⟨_, _, by rw [divideReg, hd, ha, andThen_next, andThen_next], setsReg_withFlags_drawn hf _ 1,
    divideResult_ends _ _ _ _ _ rfl⟩

theorem divideImm_ends (hd : dst = .next d) (hf : d.fits sz.double) (imm : BitVec sz.bits) :
    ∃ t y, divideImm signed sz dst imm s = .next t ∧ s.SetsReg t sz.double d y ∧
      s.DivideEnds t (quotient signed sz (s.slot sz.double d) imm) y :=
  ⟨_, _, by rw [divideImm, hd, andThen_next], setsReg_withFlags_drawn hf _ 1,
    divideResult_ends _ _ _ _ _ rfl⟩

theorem divideMem_ends {m : MemOp} {e : Eff} (hd : dst = .next d) (hf : d.fits sz.double)
    (he : s.eff m = .next e) :
    ∃ t y, divideMem signed sz dst m s = .next t ∧ s.LoadsReg t sz.double e d y nowhere ∧
      s.DivideEnds t (quotient signed sz ((s.preStep e).slot sz.double d)
        ((s.preStep e).memRead sz e.addr)) y :=
  ⟨_, _, by rw [divideMem, hd, andThen_next, withMem_of_eff _ he],
    loadsReg_of he hf ((kept_withFlags _ _).trans (kept_drawn _ _)) (by simp),
    divideResult_ends _ _ _ _ _ (by simp)⟩

end

/-- Settles O42: the three forms, unsigned and signed. -/
theorem divideForms : Obligations.DivideForms := by
  intro s sz R r d a _
  exact List.forall_iff_forall_mem.mp
    ⟨⟨fun hd ha => divideReg_ends hd ha (shortDouble_fits hd),
        fun imm hd => divideImm_ends hd (regDouble_fits hd) imm,
        fun m e hd he => divideMem_ends hd (shortDouble_fits hd) he⟩,
      fun hd ha => divideReg_ends hd ha (shortDouble_fits hd),
      fun imm hd => divideImm_ends hd (regDouble_fits hd) imm,
      fun m e hd he => divideMem_ends hd (shortDouble_fits hd) he⟩

/-! ## MULA -/

section

variable {s : State} {d : Slot}

/-- The exact sum of MULA. -/
def State.mulaSum (s : State) (d : Slot) : Int :=
  (s.slot .L d).toInt + (s.memRead .W (s.slot .L (s.curSlot .xde))).toInt *
    ((s.drawn 1).memRead .W (s.slot .L (s.curSlot .xhl))).toInt

/-- S and Z follow the destination, V says whether the exact sum fits 32 bits. -/
def mulaFlags (f : Flags) (r : Word32) (sum : Int) : Flags :=
  { f with s := r.msb, z := decide (r = 0), v := decide (sum < -2 ^ 31 ∨ 2 ^ 31 ≤ sum) }

/-- Where MULA ends after `t` has written its registers. -/
def State.mulaEnd (s t : State) (d : Slot) : State :=
  { t.drawn 1 with f := mulaFlags s.f (t.slot .L d) (s.mulaSum d) }

theorem multiplyAdd_eq (hmax : s.max = true) :
    multiplyAdd (.next d) s = .next (s.mulaEnd
      (if d.reg = (s.curSlot .xhl).reg then s.setSlot .L (s.curSlot .xhl) (s.free 32 0)
       else (s.setSlot .L d (BitVec.ofInt 32 (s.mulaSum d))).setSlot .L (s.curSlot .xhl)
         (s.slot .L (s.curSlot .xhl) - 2)) d) := by
  have hv : decide (s.mulaSum d < -2 ^ 31 ∨ s.mulaSum d > 2 ^ 31 - 1) =
      decide (s.mulaSum d < -2 ^ 31 ∨ 2 ^ 31 ≤ s.mulaSum d) := by
    rw [decide_eq_decide, gt_iff_lt, Int.sub_one_lt_iff]
  rw [multiplyAdd, if_neg (not_not.mpr hmax), andThen_next, State.mulaEnd, mulaFlags, ← hv]
  rfl

/-- The end of MULA touches F and the draws. -/
theorem kept_mulaEnd (s t : State) (d : Slot) {regs : PReg → Prop} {bytes : Word32 → Prop} :
    t.Kept (s.mulaEnd t d) regs bytes :=
  (kept_drawn t 1).trans (kept_withFlags _ _)

theorem mulaEnd_slot (s t : State) (d a : Slot) (sz : Size) :
    (s.mulaEnd t d).slot sz a = t.slot sz a :=
  slot_congr ((kept_mulaEnd s t d).registers (regs := noReg) (bytes := nowhere) _ id) sz

/-- A long-word part is a whole register. -/
theorem Slot.eq_of_fits_long {a : Slot} (hd : d.fits .L) (ha : a.fits .L) (h : d.reg = a.reg) :
    d = a := by
  have hd4 : d.off.toNat + 4 ≤ 4 := hd.1
  have ha4 : a.off.toNat + 4 ≤ 4 := ha.1
  have hoff : d.off = a.off := BitVec.eq_of_toNat_eq (by omega)
  cases d
  cases a
  exact congrArg₂ Slot.mk h hoff

/-- In maximum mode a register of the current bank has 32 bits. -/
theorem curSlot_fits_long (hmax : s.max = true) (k : BankedReg) : (s.curSlot k).fits .L :=
  ⟨Nat.le_refl 4, .inl (curBank_lt s hmax)⟩

/-- Two writes to parts of different registers do not meet. -/
theorem setSlot_setSlot_of_ne {a : Slot} {sz : Size} (hd : d.fits sz) (ha : a.fits sz)
    (hne : d.reg ≠ a.reg) (x y : BitVec sz.bits) :
    ((s.setSlot sz d x).setSlot sz a y).slot sz d = x ∧
      ((s.setSlot sz d x).setSlot sz a y).slot sz a = y ∧
      s.Kept ((s.setSlot sz d x).setSlot sz a y) (fun p => p = d.reg ∨ p = a.reg) nowhere :=
  ⟨(slot_congr ((kept_setSlot _ sz a y).registers _ hne) sz).trans
      (wrote_setSlot s sz d x hd).value,
    (wrote_setSlot _ sz a y ha).value,
    ((kept_setSlot s sz d x).widen fun _ => .inl).trans
      ((kept_setSlot _ sz a y).widen fun _ => .inr)⟩

/-- A register other than XHL gets the sum, and XHL moves. -/
theorem multiplyAdd_of_ne (hmax : s.max = true) (hf : d.fits .L)
    (hne : d.reg ≠ (s.curSlot .xhl).reg) :
    let hl := s.curSlot .xhl
    let r := BitVec.ofInt 32 (s.mulaSum d)
    ∃ t, multiplyAdd (.next d) s = .next t ∧ t.slot .L d = r ∧
      t.slot .L hl = s.slot .L hl - 2 ∧ t.f = mulaFlags s.f r (s.mulaSum d) ∧
      s.Kept t (fun p => p = d.reg ∨ p = hl.reg) nowhere ∧ t.pc = s.pc := by
  intro hl r
  obtain ⟨sum, moved, kept⟩ := setSlot_setSlot_of_ne (sz := .L) hf
    (curSlot_fits_long hmax .xhl) hne r (s.slot .L hl - 2)
  refine ⟨_, by rw [multiplyAdd_eq hmax, if_neg hne], (mulaEnd_slot ..).trans sum,
    (mulaEnd_slot ..).trans moved, ?flags, kept.trans (kept_mulaEnd ..),
    (setSlot_pc ..).trans (setSlot_pc ..)⟩
  case flags => exact congrArg (mulaFlags s.f · _) sum

/-- XHL itself is left open, and S and Z follow it. -/
theorem multiplyAdd_of_eq (hmax : s.max = true) (hf : d.fits .L)
    (heq : d.reg = (s.curSlot .xhl).reg) :
    let hl := s.curSlot .xhl
    ∃ t, multiplyAdd (.next d) s = .next t ∧
      t.f = mulaFlags s.f (t.slot .L hl) (s.mulaSum d) ∧
      s.Kept t (fun p => p = hl.reg) nowhere ∧ t.pc = s.pc := by
  intro hl
  have hd : d = hl := Slot.eq_of_fits_long hf (curSlot_fits_long hmax .xhl) heq
  refine ⟨_, by rw [multiplyAdd_eq hmax, if_pos heq], ?flags,
    (kept_setSlot s .L hl _).trans (kept_mulaEnd ..), setSlot_pc ..⟩
  case flags =>
    rw [mulaEnd_slot, ← hd]
    rfl

end

/-- Settles O43: the two cases of the destination. -/
theorem multiplyAddForm : Obligations.MultiplyAddForm := by
  intro s r d hmax hd xde hl sum v
  have hf : d.fits .L := regSlot_fits hd
  have hx : exec (.mula r) s = multiplyAdd (.next d) s := by
    rw [← hd]
    rfl
  rw [hx]
  exact ⟨multiplyAdd_of_ne hmax hf, multiplyAdd_of_eq hmax hf⟩

end Sys2Proof.Machine
end

section
/-!
The bit operations: what they do to the bits of a value, to C and to the other flags, and their
forms on a register and on a memory byte (46_bit.md R170 to R183, R186, R187).
-/

namespace Sys2Proof.Machine

/-! ## Bits of a value -/

/-- The bit number in A is its value modulo 16 (46_bit.md R186). -/
theorem bitNumber_eq (s : State) : bitNumber s = s.regA.toNat % 16 :=
  BitVec.toNat_setWidth 4 s.regA

section

variable {w k : Nat}

/-- The mask of the bit operations has one bit. -/
theorem getLsbD_bitMask (num : Nat) (hk : k < w) :
    (1#w <<< num).getLsbD k = decide (k = num) := by
  have h : (1#w <<< num).getLsbD k = (decide (num < w) && decide (num = k)) :=
    BitVec.getLsbD_twoPow num k
  rw [h, ← Bool.decide_and, decide_eq_decide]
  omega

theorem getLsbD_putBit (num : Nat) (b : Bool) (v : BitVec w) (hk : k < w) :
    (putBit num b v).getLsbD k = if k = num then b else v.getLsbD k := by
  unfold putBit
  cases b with
  | false =>
    rw [if_neg Bool.false_ne_true, BitVec.getLsbD_and, BitVec.getLsbD_not, getLsbD_bitMask num hk]
    by_cases h : k = num <;> simp [h, hk]
  | true =>
    rw [if_pos rfl, BitVec.getLsbD_or, getLsbD_bitMask num hk]
    by_cases h : k = num <;> simp [h]

theorem getLsbD_flipBit (num : Nat) (v : BitVec w) (hk : k < w) :
    (flipBit num v).getLsbD k = if k = num then !v.getLsbD num else v.getLsbD k := by
  rw [flipBit, BitVec.getLsbD_xor, getLsbD_bitMask num hk]
  by_cases h : k = num <;> simp [h]

end

/-! ## C from a bit (46_bit.md R170, R172 to R174) -/

/-- The C that `op` computes from bit `num` of `v`: free where `v` has no such bit. -/
def State.newCarry {w : Nat} (s : State) (op : CarryOp) (num : Nat) (v : BitVec w) : Bool :=
  if num < w then op.carry s.f.c (v.getLsbD num) else s.freeBit 0

section

variable {s : State} {op : CarryOp} {w : Nat}

theorem carryFrom_f (s : State) (op : CarryOp) (num : Nat) (v : BitVec w) :
    (s.carryFrom op num v).f = { s.f with c := s.newCarry op num v } := rfl

theorem kept_carryFrom (s : State) (op : CarryOp) (num : Nat) (v : BitVec w)
    {regs : PReg → Prop} {bytes : Word32 → Prop} :
    s.Kept (s.carryFrom op num v) regs bytes :=
  (kept_drawn s 1).trans (kept_withFlags _ _)

/-- A pre-decrement changes neither C nor the next free bit. -/
theorem preStep_newCarry (s : State) (e : Eff) (op : CarryOp) (num : Nat) (v : BitVec w) :
    (s.preStep e).newCarry op num v = s.newCarry op num v := by
  rw [State.newCarry, preStep_f, preStep_freeBit, State.newCarry]

theorem carryReg_keeps {sz : Size} {src : Out Slot} {a : Slot} (ha : src = .next a) (num : Nat) :
    ∃ t, carryReg op sz num src s = .next t ∧ s.Kept t noReg nowhere ∧ t.pc = s.pc ∧
      t.f = { s.f with c := s.newCarry op num (s.slot sz a) } :=
  ⟨_, by rw [carryReg, ha, andThen_next], kept_carryFrom .., rfl, rfl⟩

theorem carryMem_readsMem {m : MemOp} {e : Eff} (he : s.eff m = .next e) (num : State → Nat) :
    ∃ t, carryMem op num m s = .next t ∧ s.ReadsMem t e ∧
      t.f = { s.f with
        c := s.newCarry op (num (s.preStep e)) ((s.preStep e).byte e.addr) } :=
  ⟨_, withMem_of_eff _ he, readsMem_of he (kept_carryFrom ..) (by simp),
    by rw [postStep_f, carryFrom_f, preStep_f, preStep_newCarry]⟩

theorem exec_carry_memImm (s : State) (op : CarryOp) (n : BitVec 3) (m : MemOp) :
    exec (op.memImm n m) s = carryMem op (fun _ => n.toNat) m s := by
  cases op <;> rfl

theorem exec_carry_memA (s : State) (op : CarryOp) (m : MemOp) :
    exec (op.memA m) s = carryMem op bitNumber m s := by
  cases op <;> rfl

/-- The flags of CCF and ZCF (46_bit.md R177, R178). -/
theorem setCarryFreeH_f (c : Bool) (s : State) :
    (setCarryFreeH c s).f = { s.f with c := c, h := s.freeBit 0, n := false } := rfl

theorem kept_setCarryFreeH (c : Bool) (s : State) :
    s.Kept (setCarryFreeH c s) noReg nowhere :=
  (kept_drawn s 1).trans (kept_withFlags _ _)

end

/-- Settles O37: each form is `carryReg` or `carryMem` of its operation, with the bit number given
or in A. -/
theorem carryBitForms : Obligations.CarryBitForms := by
  intro s op sz carry newC
  have newC_eq {w : Nat} (num : Nat) (v : BitVec w) : newC num v = s.newCarry op num v := by
    cases op <;> rfl
  refine ⟨fun n r a ha => ⟨?regImm, ?regA⟩, fun n m e he => ⟨?memImm, ?memA⟩, rfl, rfl,
    ⟨_, _, rfl, kept_setCarryFreeH .., rfl, setCarryFreeH_f ..⟩,
    ⟨_, _, rfl, kept_setCarryFreeH .., rfl, setCarryFreeH_f ..⟩⟩
  case regImm =>
    rw [exec_carry_regImm, newC_eq]
    exact carryReg_keeps ha n.toNat
  case regA =>
    rw [exec_carry_regA, newC_eq, ← bitNumber_eq]
    exact carryReg_keeps ha (bitNumber s)
  case memImm =>
    rw [exec_carry_memImm, newC_eq]
    exact carryMem_readsMem he fun _ => n.toNat
  case memA =>
    rw [exec_carry_memA, newC_eq, ← bitNumber_eq]
    exact carryMem_readsMem he bitNumber

/-! ## The flags of BIT and TSET (46_bit.md R179, R183) -/

/-- From `s` to `t` Z is the inverse of the bit, H is set, N cleared and C kept; S and V are
open. -/
def State.Tests (s t : State) (bit : Bool) : Prop :=
  t.f.z = !bit ∧ t.f.h = true ∧ t.f.n = false ∧ t.f.c = s.f.c

theorem testFlags_tests (s : State) (bit : Bool) : s.Tests (s.testFlags bit) bit :=
  ⟨rfl, rfl, rfl, rfl⟩

/-- Only F is looked at. -/
theorem State.Tests.congr {s s' t t' : State} {bit : Bool} (h : s.Tests t bit)
    (hs : s'.f = s.f) (ht : t'.f = t.f) : s'.Tests t' bit := by
  unfold State.Tests
  rw [hs, ht]
  exact h

theorem kept_testFlags (s : State) (bit : Bool) {regs : PReg → Prop} {bytes : Word32 → Prop} :
    s.Kept (s.testFlags bit) regs bytes :=
  (kept_drawn s 2).trans (kept_withFlags _ _)

/-! ## The forms on a register -/

/-- A write of a register after F and draws have changed. -/
theorem State.SetsReg.after {s u t : State} {sz : Size} {d : Slot} {v : BitVec sz.bits}
    (h : u.SetsReg t sz d v) (hu : s.Kept u noReg nowhere) (hp : u.pc = s.pc) :
    s.SetsReg t sz d v where
  wrote := ⟨h.wrote.value, fun i hi => by rw [h.wrote.rest i hi, hu.registers _ id]⟩
  kept := (hu.mono (fun _ h => h.elim) fun _ h => h).trans h.kept
  pc := h.pc.trans hp

section

variable {s : State} {sz : Size} {r : RegOp} {d : Slot} (hd : s.regSlot sz r = .next d)

include hd

theorem updateReg_putBit (num : Nat) (b : Bool) :
    ∃ t x, updateReg sz (s.regSlot sz r) (putBit num b) s = .next t ∧ s.SetsReg t sz d x ∧
      t.f = s.f ∧
      ∀ k, k < sz.bits → x.getLsbD k = if k = num then b else (s.slot sz d).getLsbD k :=
  updateReg_regSlot hd _ fun _ => getLsbD_putBit num b _

theorem updateReg_flipBit (num : Nat) :
    ∃ t x, updateReg sz (s.regSlot sz r) (flipBit num) s = .next t ∧ s.SetsReg t sz d x ∧
      t.f = s.f ∧ ∀ k, k < sz.bits → x.getLsbD k =
        if k = num then !(s.slot sz d).getLsbD num else (s.slot sz d).getLsbD k :=
  updateReg_regSlot hd _ fun _ => getLsbD_flipBit num _

theorem testReg_tests (num : Nat) :
    ∃ t, testReg sz num (s.regSlot sz r) s = .next t ∧ s.Kept t noReg nowhere ∧ t.pc = s.pc ∧
      s.Tests t ((s.slot sz d).getLsbD num) :=
  ⟨_, by rw [testReg, hd, andThen_next], kept_testFlags .., rfl, testFlags_tests ..⟩

theorem testSetReg_setsReg (num : Nat) :
    ∃ t x, testSetReg sz num (s.regSlot sz r) s = .next t ∧ s.SetsReg t sz d x ∧
      s.Tests t ((s.slot sz d).getLsbD num) ∧
      ∀ k, k < sz.bits → x.getLsbD k = if k = num then true else (s.slot sz d).getLsbD k :=
  ⟨_, _, by rw [testSetReg, hd, andThen_next],
    (setsReg_setSlot (regSlot_fits hd)).after (kept_testFlags ..) rfl,
    (testFlags_tests ..).congr rfl (setSlot_f ..), fun _ => getLsbD_putBit num true _⟩

end

/-- A check of the row that fails makes the instruction ill-formed. -/
theorem firstOf_isNone_eq_false {l : List (Option Reject)} {e : Reject} (h : some e ∈ l) :
    (firstOf l).isNone = false := by
  induction l with
  | nil => cases h
  | cons x rest ih =>
    cases x with
    | some e' => rfl
    | none => exact ih ((List.mem_cons.mp h).resolve_left nofun)

/-- A bit number outside the register (46_bit.md R187). -/
theorem bitOk_of_le {sz : Size} {n : BitVec 4} (h : sz.bits ≤ n.toNat) :
    bitOk sz n = some .bitOutsideByte :=
  if_neg (Nat.not_lt.mpr h)

/-- The row of BIT, RES, SET, CHG and TSET with a bit number outside the register. -/
theorem bitRow_illFormed {sz : Size} {n : BitVec 4} (h : sz.bits ≤ n.toNat) (r : RegOp) :
    (firstOf [sizeIn [.B, .W] sz, regOk sz r, bitOk sz n]).isNone = false :=
  firstOf_isNone_eq_false (e := .bitOutsideByte) (by simp [bitOk_of_le h])

/-- Settles O38: RES, SET, CHG and STCF are `updateReg` with one bit changed, BIT and TSET take the
flags of the bit. -/
theorem bitRegisterForms : Obligations.BitRegisterForms := by
  intro s sz n r d hd v sets tested
  refine ⟨updateReg_putBit hd n.toNat s.f.c, ?stcfA, fun _ => ?inside, fun h => ?outside⟩
  case stcfA =>
    rw [← bitNumber_eq]
    exact updateReg_putBit hd (bitNumber s) s.f.c
  case inside =>
    exact ⟨updateReg_putBit hd n.toNat false, updateReg_putBit hd n.toNat true,
      updateReg_flipBit hd n.toNat, testReg_tests hd n.toNat, testSetReg_setsReg hd n.toNat⟩
  case outside =>
    have row := bitRow_illFormed h r
    exact List.forall_iff_forall_mem.mp ⟨row, row, row, row, row⟩

/-! ## The forms on a memory byte -/

section

variable {s : State} {m : MemOp} {e : Eff} (he : s.eff m = .next e)

include he

theorem testMem_tests (num : Nat) :
    ∃ t, testMem num m s = .next t ∧ s.ReadsMem t e ∧
      s.Tests t (((s.preStep e).byte e.addr).getLsbD num) :=
  ⟨_, withMem_of_eff _ he, readsMem_of he (kept_testFlags ..) (by simp),
    (testFlags_tests ..).congr (preStep_f ..).symm (postStep_f ..)⟩

variable (hwf : Memory.wf s.mem = true)

include hwf

theorem updateMem_setsMem (g : State → Byte → Byte) :
    ∃ t, updateMem m g s = .next t ∧
      s.SetsMem t .B e (g (s.preStep e) ((s.preStep e).byte e.addr)) ∧ t.f = s.f :=
  ⟨_, withMem_of_eff _ he, setsMem_memWrite (sz := .B) hwf he _, by simp⟩

theorem updateMem_putBit (num : State → Nat) (b : State → Bool) :
    ∃ t x, updateMem m (fun u v => putBit (num u) (b u) v) s = .next t ∧ s.SetsMem t .B e x ∧
      t.f = s.f ∧ ∀ k, k < 8 → x.getLsbD k =
        if k = num (s.preStep e) then b (s.preStep e)
        else ((s.preStep e).byte e.addr).getLsbD k := by
  obtain ⟨t, ht, sets, flags⟩ := updateMem_setsMem he hwf fun u v => putBit (num u) (b u) v
  exact ⟨t, _, ht, sets, flags, fun _ => getLsbD_putBit _ _ _⟩

theorem updateMem_flipBit (num : Nat) :
    ∃ t x, updateMem m (fun _ v => flipBit num v) s = .next t ∧ s.SetsMem t .B e x ∧
      t.f = s.f ∧ ∀ k, k < 8 → x.getLsbD k =
        if k = num then !((s.preStep e).byte e.addr).getLsbD num
        else ((s.preStep e).byte e.addr).getLsbD k := by
  obtain ⟨t, ht, sets, flags⟩ := updateMem_setsMem he hwf fun _ v => flipBit num v
  exact ⟨t, _, ht, sets, flags, fun _ => getLsbD_flipBit num _⟩

/-- STCF: the bit becomes C, which a pre-decrement keeps. -/
theorem updateMem_putCarry (num : State → Nat) :
    ∃ t x, updateMem m (fun u v => putBit (num u) u.f.c v) s = .next t ∧ s.SetsMem t .B e x ∧
      t.f = s.f ∧ ∀ k, k < 8 → x.getLsbD k =
        if k = num (s.preStep e) then s.f.c else ((s.preStep e).byte e.addr).getLsbD k := by
  have h := updateMem_putBit he hwf num fun u => u.f.c
  rwa [preStep_f] at h

theorem testSetMem_setsMem (num : Nat) :
    ∃ t x, testSetMem num m s = .next t ∧ s.SetsMem t .B e x ∧
      s.Tests t (((s.preStep e).byte e.addr).getLsbD num) ∧
      ∀ k, k < 8 → x.getLsbD k =
        if k = num then true else ((s.preStep e).byte e.addr).getLsbD k :=
  ⟨_, _, withMem_of_eff _ he, setsMem_of (sz := .B) he hwf (kept_testFlags ..) (by simp),
    (testFlags_tests ..).congr (preStep_f ..).symm (postStep_f ..), fun _ =>
      getLsbD_putBit num true _⟩

end

/-- Settles O39: RES, SET, CHG and STCF are `updateMem` with one bit changed, BIT and TSET take the
flags of the bit. -/
theorem bitMemoryForms : Obligations.BitMemoryForms := by
  intro s n m e hwf he v sets tested
  refine ⟨updateMem_putBit he hwf (fun _ => n.toNat) fun _ => false,
    updateMem_putBit he hwf (fun _ => n.toNat) fun _ => true,
    updateMem_flipBit he hwf n.toNat, updateMem_putCarry he hwf fun _ => n.toNat, ?stcfA,
    testMem_tests he n.toNat, testSetMem_setsMem he hwf n.toNat⟩
  case stcfA =>
    rw [← bitNumber_eq]
    exact updateMem_putCarry he hwf bitNumber

end Sys2Proof.Machine
end

section
/-!
BS1F and BS1B: the search for the first bit that is 1, from either end (46_bit.md R184, R185).
-/

namespace Sys2Proof.Machine

/-! ## The two searches -/

section

variable {v : BitVec 16} {i j n : Nat}

/-- The forward search ends without a bit where all bits searched are 0. -/
theorem lowestOne_eq_none (h : lowestOne v i n = none) :
    ∀ k, i ≤ k → k < i + n → v.getLsbD k = false := by
  induction n generalizing i with
  | zero =>
    intro k hik hk
    omega
  | succ n ih =>
    rw [lowestOne] at h
    split at h
    case isTrue => cases h
    case isFalse hzero =>
      intro k hik hk
      rcases Nat.eq_or_lt_of_le hik with rfl | hlt
      · exact Bool.eq_false_of_not_eq_true hzero
      · exact ih h k hlt (by omega)

/-- The forward search ends at a bit that is 1, and those it has passed are 0. -/
theorem lowestOne_eq_some (h : lowestOne v i n = some j) :
    v.getLsbD j = true ∧ ∀ k, i ≤ k → v.getLsbD k = true → j ≤ k := by
  induction n generalizing i with
  | zero => cases h
  | succ n ih =>
    rw [lowestOne] at h
    split at h
    case isTrue hone =>
      cases h
      exact ⟨hone, fun k hik _ => hik⟩
    case isFalse hzero =>
      obtain ⟨hj, least⟩ := ih h
      refine ⟨hj, fun k hik hk => least k ?_ hk⟩
      exact Nat.lt_of_le_of_ne hik fun hki => hzero (hki ▸ hk)

/-- The backward search ends without a bit where all bits searched are 0. -/
theorem highestOne_eq_none (h : highestOne v n = none) : ∀ k, k < n → v.getLsbD k = false := by
  induction n with
  | zero => exact fun k hk => absurd hk k.not_lt_zero
  | succ n ih =>
    rw [highestOne] at h
    split at h
    case isTrue => cases h
    case isFalse hzero =>
      intro k hk
      rcases Nat.lt_succ_iff_lt_or_eq.mp hk with hlt | rfl
      · exact ih h k hlt
      · exact Bool.eq_false_of_not_eq_true hzero

/-- The backward search ends at a bit that is 1, and those it has passed are 0. -/
theorem highestOne_eq_some (h : highestOne v n = some j) :
    v.getLsbD j = true ∧ ∀ k, k < n → v.getLsbD k = true → k ≤ j := by
  induction n with
  | zero => cases h
  | succ n ih =>
    rw [highestOne] at h
    split at h
    case isTrue hone =>
      cases h
      exact ⟨hone, fun k hk _ => Nat.le_of_lt_succ hk⟩
    case isFalse hzero =>
      obtain ⟨hj, greatest⟩ := ih h
      refine ⟨hj, fun k hk hone => greatest k ?_ hone⟩
      exact Nat.lt_of_le_of_ne (Nat.le_of_lt_succ hk) fun hkn => hzero (hkn ▸ hone)

end

/-- `find` answers a bit that is 1, before every other one in the order `first`, and answers none
for 0 only. -/
structure Finds (find : BitVec 16 → Option Nat) (first : Nat → Nat → Prop) : Prop where
  zero_of_none : ∀ v, find v = none → v = 0
  first_of_some : ∀ v j, find v = some j → v.getLsbD j = true ∧
    ∀ k, k < 16 → v.getLsbD k = true → k = j ∨ first j k

/-- A word whose sixteen bits are 0. -/
theorem eq_zero_of_bits {v : BitVec 16} (h : ∀ k, k < 16 → v.getLsbD k = false) : v = 0 :=
  BitVec.eq_of_getLsbD_eq fun k hk => by rw [h k hk]; exact BitVec.getLsbD_zero.symm

theorem lowestOne_finds : Finds (fun v => lowestOne v 0 16) (fun j k => j < k) where
  zero_of_none _ h := eq_zero_of_bits fun k hk => lowestOne_eq_none h k k.zero_le (by omega)
  first_of_some _ j h := by
    obtain ⟨hj, least⟩ := lowestOne_eq_some h
    exact ⟨hj, fun k _ hk => (Nat.eq_or_lt_of_le (least k k.zero_le hk)).imp_left Eq.symm⟩

theorem highestOne_finds : Finds (fun v => highestOne v 16) (fun j k => k < j) where
  zero_of_none _ h := eq_zero_of_bits (highestOne_eq_none h)
  first_of_some _ j h := by
    obtain ⟨hj, greatest⟩ := highestOne_eq_some h
    exact ⟨hj, fun k hlt hk => Nat.eq_or_lt_of_le (greatest k hlt hk)⟩

/-! ## The instructions -/

/-- A write of A after a change of V. -/
theorem setRegA_setsReg_withV (s : State) (b : Bool) (x : BitVec 8) :
    s.SetsReg ({ s with f := { s.f with v := b } }.setRegA x) .B (s.curSlot .xwa) x :=
  (setsReg_setSlot (sz := .B) (curSlot_fits s .xwa)).after (kept_withFlags s _) rfl

/-- Draws after a write of a register. -/
theorem State.SetsReg.drawn {s t : State} {sz : Size} {d : Slot} {x : BitVec sz.bits}
    (h : s.SetsReg t sz d x) (n : Nat) : s.SetsReg (t.drawn n) sz d x :=
  ⟨h.wrote.of_reg (drawn_reg ..), h.kept.trans (kept_drawn ..), h.pc⟩

/-- The number of the bit found goes to A; for 0 A is open. -/
theorem bitSearch_finds {s : State} {find : BitVec 16 → Option Nat} {first : Nat → Nat → Prop}
    (hfind : Finds find first) {src : Out Slot} {a : Slot} (ha : src = .next a) :
    ∃ t x, bitSearch find src s = .next t ∧ s.SetsReg t .B (s.curSlot .xwa) x ∧
      t.f = { s.f with v := decide (s.slot .W a = 0) } ∧
      (s.slot .W a ≠ 0 → (s.slot .W a).getLsbD x.toNat = true ∧
        ∀ k, k < 16 → (s.slot .W a).getLsbD k = true → k = x.toNat ∨ first x.toNat k) := by
  rw [bitSearch, ha, andThen_next]
  cases hv : find (s.slot .W a) with
  | none =>
    have hzero := hfind.zero_of_none _ hv
    refine ⟨_, _, rfl, (setRegA_setsReg_withV s true _).drawn 1, ?flags,
      fun hne => absurd hzero hne⟩
    case flags => rw [drawn_f, setRegA_f, decide_eq_true hzero]
  | some j =>
    obtain ⟨hone, hfirst⟩ := hfind.first_of_some _ j hv
    have hj : j < 16 := BitVec.lt_of_getLsbD hone
    have hne : s.slot .W a ≠ 0 := fun h => by simp [h] at hone
    have hx : (BitVec.ofNat 8 j).toNat = j := Nat.mod_eq_of_lt (by omega)
    refine ⟨_, BitVec.ofNat 8 j, rfl, setRegA_setsReg_withV s false _, ?flags, fun _ => ?found⟩
    case flags => rw [setRegA_f, decide_eq_false hne]
    case found =>
      rw [hx]
      exact ⟨hone, hfirst⟩

/-- Settles O40: the two searches of a word register. -/
theorem bitSearchForms : Obligations.BitSearchForms := by
  intro s r a ha
  exact ⟨bitSearch_finds lowestOne_finds ha, bitSearch_finds highestOne_finds ha⟩

end Sys2Proof.Machine
end

section
/-!
The control instructions: what a halted core does, the instructions that write one control of
the machine, and LINK and UNLK (47_control.md).
-/

namespace Sys2Proof.Machine

/-! ## A halted core -/

theorem instruction_of_halted {s : State} (h : s.halted = true) : instruction s = .next s :=
  if_pos h

/-- Settles O6: the core goes on with its instruction, and of a halted core that is nothing. -/
theorem haltedCoreExecutesNothing : Obligations.HaltedCoreExecutesNothing := by
  intro s hh
  refine ⟨fun ho => ?nothing, fun later ho => ?idle, fun L V later ho hL => ?request⟩
  case nothing =>
    rw [step, ho]
    exact instruction_of_halted hh
  case idle =>
    rw [step, ho]
    exact instruction_of_halted hh
  case request =>
    have hnot : ¬ s.enabled L = true := by
      rw [enabled_iff]
      omega
    rw [step_of_not_enabled ho hnot]
    exact instruction_of_halted hh

/-! ## The instructions that write one control -/

/-- RFP2 held at 0 is the number modulo 4. -/
theorem rfpIn_toNat (max : Bool) (v : BitVec 3) :
    (rfpIn max v).toNat = if max then v.toNat % 4 else v.toNat := by
  cases max with
  | false => rfl
  | true => exact (BitVec.toNat_and v 3).trans (Nat.and_two_pow_sub_one_eq_mod v.toNat 2)

/-- A write of RFP leaves the rest of the state. -/
theorem setRfp_eq (s : State) (v : BitVec 3) :
    s.setRfp v = { s with rfp := (s.setRfp v).rfp } ∧
      (s.setRfp v).rfp.toNat = if s.max then v.toNat % 4 else v.toNat :=
  ⟨rfl, rfpIn_toNat s.max v⟩

/-- Settles O54: LDF, INCF and DECF are writes of RFP, the others of their own field. -/
theorem controlForms : Obligations.ControlForms := by
  intro s
  refine ⟨rfl, fun _ => rfl, rfl, rfl, ?bank⟩
  case bank =>
    exact List.forall_iff_forall_mem.mp
      ⟨fun _ => ⟨_, rfl, setRfp_eq s (s.rfp + 1)⟩, fun _ => ⟨_, rfl, setRfp_eq s (s.rfp - 1)⟩,
        fun n => ⟨_, rfl, setRfp_eq s n⟩⟩

/-! ## LINK and UNLK -/

section

variable {s : State} {a : Slot}

/-- A push of a register, of XSP too, is a push of some value. -/
theorem pushSlot_pushesOnly (hwf : Memory.wf s.mem = true) (sz : Size) (a : Slot) :
    ∃ v, s.PushesOnly (s.pushSlot sz a) sz v ∧ (a.reg ≠ .fixed .xsp → v = s.slot sz a) := by
  by_cases h : a.reg = .fixed .xsp
  · rcases pushSlot_of_xsp (s := s) (sz := sz) h with hp | hp <;> rw [hp] <;>
      exact ⟨_, pushesOnly_push_drawn hwf sz _ 1, fun hne => absurd h hne⟩
  · rw [pushSlot_of_ne h]
    exact ⟨_, pushesOnly_push hwf sz _, fun _ => rfl⟩

/-- A long-word part reads its whole register. -/
theorem slot_long (hf : a.fits .L) : s.slot .L a = s.reg a.reg := by
  have hoff : a.off.toNat + 4 ≤ 4 := hf.1
  have hlsb : a.lsb = 0 := by
    rw [Slot.lsb]
    omega
  rw [State.slot, hlsb]
  exact BitVec.extractLsb'_eq_self

/-- XSP written to a long-word register stays in XSP, where that is the register too. -/
theorem setSlot_own_xsp (hf : a.fits .L) : (s.setSlot .L a s.xsp).xsp = s.xsp := by
  by_cases h : a.reg = .fixed .xsp
  · have hv := (wrote_setSlot s .L a s.xsp hf).value
    rw [slot_long hf, h] at hv
    exact hv
  · exact (kept_setSlot s .L a s.xsp).registers (.fixed .xsp) (Ne.symm h)

/-- LINK: a push of the register, XSP into it, and a move of XSP. -/
theorem linkFrame_links (hwf : Memory.wf s.mem = true) (hf : a.fits .L) (d : BitVec 16) :
    ∃ t, linkFrame (.next a) d s = .next t ∧ t.f = s.f ∧ t.pc = s.pc ∧
      t.xsp = s.xsp - 4 + d.signExtend 32 ∧
      s.Kept t (fun p => p = a.reg ∨ p = .fixed .xsp) (touches .L (s.xsp - 4)) ∧
      (a.reg ≠ .fixed .xsp → t.slot .L a = s.xsp - 4 ∧
        s.Stored t .L (s.xsp - 4) (s.slot .L a)) := by
  obtain ⟨v, ⟨hpush, hflags, hpc, hxsp⟩, hv⟩ := pushSlot_pushesOnly hwf .L a
  have hxsp : (s.pushSlot .L a).xsp = s.xsp - 4 := hxsp
  refine ⟨_, rfl, (setSlot_f ..).trans hflags, (setSlot_pc ..).trans hpc, ?pointer, ?kept,
    fun hne => ⟨?base, ?stored⟩⟩
  case pointer =>
    show (State.setSlot _ .L a _).xsp + _ = _
    rw [setSlot_own_xsp hf, hxsp]
  case kept =>
    exact ((hpush.kept.mono (fun _ h => .inr (h.resolve_right id)) fun _ h => h).trans
      ((kept_setSlot _ .L a _).widen fun _ => .inl)).trans
      ((kept_withXsp _ _).widen fun _ => .inr)
  case base =>
    rw [slot_congr ((kept_withXsp _ _).registers a.reg hne), (wrote_setSlot _ .L a _ hf).value,
      hxsp]
  case stored =>
    rw [← hv hne]
    exact hpush.stored.of_cells (fun _ => rfl) rfl fun _ => cell_congr (setSlot_mem ..) _

/-- UNLK: XSP from the register, and a pop of the register there. -/
theorem unlinkFrame_unlinks (hf : a.fits .L) :
    ∃ t, unlinkFrame (.next a) s = .next t ∧ t.f = s.f ∧ t.pc = s.pc ∧
      s.Kept t (fun p => p = a.reg ∨ p = .fixed .xsp) nowhere ∧
      (a.reg ≠ .fixed .xsp → t.slot .L a = s.memRead .L (s.slot .L a) ∧
        t.xsp = s.slot .L a + 4) := by
  have hpop := popsReg_popSlot (s := { s with xsp := s.slot .L a }) hf
  refine ⟨_, rfl, popSlot_f .., hpop.pc,
    ((kept_withXsp s _).widen fun _ => .inr).trans hpop.kept, fun hne => ?_⟩
  obtain ⟨hwrote, hxsp⟩ := hpop.wrote hne
  exact ⟨hwrote.value.trans (memRead_congr (by rfl) rfl rfl .L _), hxsp⟩

end

/-- Settles O49: both instructions run on the long word that the register code names. -/
theorem linkAndUnlinkForms : Obligations.LinkAndUnlinkForms := by
  intro s r a d16 hwf ha
  have hf : a.fits .L := regSlot_fits ha
  refine ⟨?link, ?unlk⟩
  case link =>
    show ∃ t, linkFrame (s.regSlot .L r) d16 s = .next t ∧ _
    rw [ha]
    exact linkFrame_links hwf hf d16
  case unlk =>
    show ∃ t, unlinkFrame (s.regSlot .L r) s = .next t ∧ _
    rw [ha]
    exact unlinkFrame_unlinks hf

end Sys2Proof.Machine
end

section
/-!
SWI, and RETI at the end of a handler (47_control.md R196, 49_jump.md R238,
60_exceptions.md R257, R258).
-/

namespace Sys2Proof.Machine

/-! ## The frame of SWI -/

section

variable (s : State)

/-- SR stored under XSP, as the first of the two stores of SWI. -/
def State.savedSr (s : State) : State :=
  { s with xsp := s.xsp - byteCount s.pcSize - 2 }.memWrite .W
    (s.xsp - byteCount s.pcSize - 2) s.sr

theorem saveSrThenPc_eq :
    s.saveSrThenPc = s.savedSr.memWrite s.pcSize (s.xsp - byteCount s.pcSize)
      (s.pc.setWidth _) := by
  rw [← BitVec.sub_add_cancel (s.xsp - byteCount s.pcSize) 2]
  rfl

theorem kept_savedSr :
    s.Kept s.savedSr (fun p => p = .fixed .xsp)
      (touches .W (s.xsp - byteCount s.pcSize - 2)) :=
  ((kept_withXsp s _).widen fun _ => id).trans (kept_memWrite_beside _ .W _ _)

/-- The store of the pc, above SR. -/
theorem kept_savePcAbove :
    s.savedSr.Kept s.saveSrThenPc (fun p => p = .fixed .xsp)
      (touches s.pcSize (s.xsp - byteCount s.pcSize)) := by
  rw [saveSrThenPc_eq]
  exact kept_memWrite_beside _ _ _ _

theorem kept_saveSrThenPc :
    s.Kept s.saveSrThenPc (fun p => p = .fixed .xsp)
      (fun a => touches .W (s.xsp - byteCount s.pcSize - 2) a ∨
        touches s.pcSize (s.xsp - byteCount s.pcSize) a) :=
  ((kept_savedSr s).mono (fun _ => id) fun _ => .inl).trans
    ((kept_savePcAbove s).mono (fun _ => id) fun _ => .inr)

variable (hwf : Memory.wf s.mem = true)
include hwf

theorem stored_status_swi : s.Stored s.saveSrThenPc .W s.saveSrThenPc.xsp s.sr := by
  rw [saveSrThenPc_xsp]
  exact (stored_memWrite { s with xsp := s.xsp - byteCount s.pcSize - 2 } .W _ s.sr
    hwf).of_cells_at (fun _ _ => rfl) rfl fun k hk =>
      (kept_savePcAbove s).memory _ (touches_below_disjoint ⟨k, hk, rfl⟩)

theorem stored_counter_swi :
    s.Stored s.saveSrThenPc s.pcSize (s.saveSrThenPc.xsp + 2) (s.pc.setWidth _) := by
  rw [saveSrThenPc_xsp, BitVec.sub_add_cancel, saveSrThenPc_eq]
  exact (stored_memWrite s.savedSr s.pcSize _ _ (memWrite_wf _ _ _ _ hwf)).of_cells_at
    (fun k hk => (kept_savedSr s).memory _ fun hr => touches_below_disjoint hr ⟨k, hk, rfl⟩)
    (kept_savedSr s).product fun _ _ => rfl

end

/-! ## The entry by SWI -/

section

variable {s : State} {V : BitVec 24}

/-- The handler is read as memory is once the frame is stored. -/
theorem enterException_pc {u : State} (hmax : u.max = s.max) (hdraws : u.draws = s.draws)
    (hproduct : u.product = s.product) :
    (u.enterException V).pc = s.pcOf
      ((({ s with mem := u.mem } : State).memRead s.pcSize (s.vectorAddr V)).setWidth 32) := by
  have hsize : u.pcSize = s.pcSize := by simp only [State.pcSize, hmax]
  have hvector : u.vectorAddr V = s.vectorAddr V := by simp only [State.vectorAddr, hproduct]
  have hread : u.memRead s.pcSize (s.vectorAddr V) =
      ({ s with mem := u.mem } : State).memRead s.pcSize (s.vectorAddr V) :=
    memRead_congr (t := u) (s := { s with mem := u.mem }) rfl hdraws hproduct _ _
  calc (u.enterException V).pc
    _ = u.pcOf ((u.memRead u.pcSize (u.vectorAddr V)).setWidth 32) := rfl
    _ = _ := by rw [pcOf_congr hmax, hsize, hvector, hread]

theorem enters_swi (hwf : Memory.wf s.mem = true) :
    s.Enters (s.saveSrThenPc.enterException V) V where
  pointer := saveSrThenPc_xsp s
  status := stored_status_swi s hwf
  counter := stored_counter_swi s hwf
  nesting := (crFit_congr (saveSrThenPc_product s) _ _).trans (by rw [saveSrThenPc_intnest])
  handler := enterException_pc (saveSrThenPc_max s) (saveSrThenPc_draws s) (saveSrThenPc_product s)
  flags := saveSrThenPc_f s
  kept :=
    { kept_saveSrThenPc s with
      iff := rfl, intnest := rfl, halted := rfl, repeating := rfl }

end

/-- Settles O58: the entry, from the frame of SWI. -/
theorem swiTakesItsVector : Obligations.SwiTakesItsVector := by
  intro s n hwf
  have hkept := kept_saveSrThenPc s
  refine ⟨_, rfl, enters_swi hwf, ?status, ?stores, hkept.halted, hkept.repeating⟩
  case status => simp [State.sr]
  case stores =>
    show s.saveSrThenPc.stores = _ ++ byteStores .W s.saveSrThenPc.xsp _ ++
      byteStores _ (s.saveSrThenPc.xsp + 2) _
    rw [saveSrThenPc_xsp]
    exact saveSrThenPc_stores s

/-! ## The fields of SR (10_state.md R20) -/

theorem sr_max (s : State) : s.sr.getLsbD 11 = s.max := by
  simp only [State.sr, BitVec.getLsbD_append]
  simp

theorem sr_iff (s : State) : s.sr.extractLsb' 12 3 = s.iff := by
  apply BitVec.eq_of_getLsbD_eq
  intro i hi
  simp only [State.sr, BitVec.getLsbD_extractLsb', BitVec.getLsbD_append]
  rw [if_neg (by omega), if_neg (by omega), if_neg (by omega), if_pos (by omega),
    decide_eq_true hi, show 12 + i - 8 - 3 - 1 = i by omega, Bool.true_and]

theorem sr_rfp (s : State) : s.sr.extractLsb' 8 3 = s.rfp := by
  apply BitVec.eq_of_getLsbD_eq
  intro i hi
  simp only [State.sr, BitVec.getLsbD_extractLsb', BitVec.getLsbD_append]
  rw [if_neg (by omega), if_pos (by omega), decide_eq_true hi, Nat.add_sub_cancel_left,
    Bool.true_and]

theorem sr_f (s : State) : s.sr.setWidth 8 = s.f.byte :=
  BitVec.setWidth_append_eq_right

theorem Flags.ofByte_byte (f : Flags) : Flags.ofByte f.byte = f := by
  simp only [Flags.ofByte, Flags.byte, BitVec.getLsbD_append]
  simp

/-! ## RETI -/

section

variable {s u : State}

/-- A write of SR that leaves MAX sets the other fields. -/
theorem setSr_of_same_max {v : BitVec 16} (hmax : v.getLsbD 11 = s.max)
    (hmode : s.max = false → s.product.minModeAvailable = true) :
    s.setSr v = .next { s with
      iff := v.extractLsb' 12 3, rfp := rfpIn s.max (v.extractLsb' 8 3),
      f := Flags.ofByte (v.setWidth 8) } := by
  have hset : s.setMax s.max = .next s := by
    have hav : (s.max || s.product.minModeAvailable) = true := by
      cases hm : s.max with
      | true => rfl
      | false => exact hmode hm
    rw [State.setMax, if_pos hav, State.changeMode, if_pos rfl]
  rw [State.setSr, hmax, hset]
  rfl

/-- RFP is a bank number of the mode. -/
theorem State.Inv.rfpIn_rfp (h : s.Inv) : rfpIn s.max s.rfp = s.rfp := by
  apply BitVec.eq_of_toNat_eq
  rw [rfpIn_toNat]
  split
  case isTrue hm => exact Nat.mod_eq_of_lt (h.bank hm)
  case isFalse => rfl

/-- The pc comes back through a store at the width of the mode. -/
theorem State.Inv.pcOf_pc (h : s.Inv) :
    s.pcOf ((s.pc.setWidth s.pcSize.bits).setWidth 32) = s.pc := by
  have hlt := h.counter
  unfold State.pcOf State.pcSize
  cases hm : s.max with
  | true => exact BitVec.setWidth_eq _
  | false =>
    have h16 : s.pc.toNat < 2 ^ 16 := hlt hm
    show ((((s.pc.setWidth 16).setWidth 32).setWidth 16).setWidth 32 : Word32) = s.pc
    apply BitVec.eq_of_toNat_eq
    simp only [BitVec.toNat_setWidth]
    omega

/-- A value that is cut before a sum need not be. -/
theorem crFit_crFit_add (s : State) (c : CReg) (v d : Word32) :
    s.crFit c (s.crFit c v + d) = s.crFit c (v + d) := by
  have hle : (s.crWidth c).bits ≤ 32 := by cases s.crWidth c <;> decide
  unfold State.crFit
  rw [BitVec.setWidth_add _ _ hle, BitVec.setWidth_add _ _ hle,
    BitVec.setWidth_setWidth_of_le _ hle, BitVec.setWidth_eq]

/-- INTNEST after a count up and a count down. -/
theorem State.Inv.intnest_up_down (h : s.Inv) :
    s.crFit .intnest (s.crFit .intnest (s.intnest + 1) - 1) = s.intnest := by
  rw [BitVec.sub_eq_add_neg, crFit_crFit_add, ← BitVec.sub_eq_add_neg, BitVec.add_sub_cancel]
  exact h.control .intnest

/-- SR of `s` written in the mode of `s`. -/
theorem setSr_sr (hinv : s.Inv) (hmax : u.max = s.max) (hproduct : u.product = s.product) :
    u.setSr s.sr = .next { u with iff := s.iff, rfp := s.rfp, f := s.f } := by
  have hmode : u.max = false → u.product.minModeAvailable = true := by
    rw [hmax, hproduct]
    exact hinv.mode
  rw [setSr_of_same_max ((sr_max s).trans hmax.symm) hmode, sr_iff, sr_rfp, sr_f,
    Flags.ofByte_byte, hmax, hinv.rfpIn_rfp]

/-- RETI over the frame of `s`, in the mode of `s`. -/
theorem reti_of_frame (hinv : s.Inv) (hmax : u.max = s.max) (hproduct : u.product = s.product)
    (hpointer : u.xsp = s.xsp - byteCount s.pcSize - 2) (hstatus : u.memRead .W u.xsp = s.sr)
    (hcounter : u.memRead s.pcSize (u.xsp + 2) = s.pc.setWidth _) :
    exec .reti u = .next { u with
      pc := s.pc, xsp := s.xsp, iff := s.iff, rfp := s.rfp, f := s.f,
      intnest := u.crFit .intnest (u.intnest - 1) } := by
  have hsize : u.pcSize = s.pcSize := by simp only [State.pcSize, hmax]
  have hxsp : u.xsp + 2 + byteCount u.pcSize = s.xsp := by
    rw [hpointer, hsize, BitVec.sub_add_cancel, BitVec.sub_add_cancel]
  have hpc : u.pcOf ((u.memRead u.pcSize (u.xsp + 2)).setWidth 32) = s.pc := by
    rw [hsize, hcounter, pcOf_congr hmax, hinv.pcOf_pc]
  calc exec .reti u
    _ = andThen ((u.popped .W).popPc.setSr (u.memRead .W u.xsp)) fun t =>
          .next { t with intnest := t.crFit .intnest (t.intnest - 1) } := rfl
    _ = .next { u with
          pc := u.pcOf ((u.memRead u.pcSize (u.xsp + 2)).setWidth 32)
          xsp := u.xsp + 2 + byteCount u.pcSize
          iff := s.iff, rfp := s.rfp, f := s.f
          intnest := u.crFit .intnest (u.intnest - 1) } := by
      rw [hstatus, setSr_sr (u := (u.popped .W).popPc) hinv hmax hproduct]
      rfl
    _ = _ := by rw [hpc, hxsp]

end

/-! ## A handler and its return -/

section

variable {s t : State} {V : BitVec 24}

/-- What a handler may leave of the state `t` at its entry. -/
def State.handled (t : State) (pc : Word32) (i r : BitVec 3) (g : Flags) (h : Bool)
    (q : Option Repeating) : State :=
  { t with pc := pc, iff := i, rfp := r, f := g, halted := h, repeating := q }

/-- RETI in `u` leads back to `s`, but for the bytes of the frame. -/
def State.ReturnsTo (u s : State) : Prop :=
  ∃ t, exec .reti u = .next t ∧ t.pc = s.pc ∧ t.sr = s.sr ∧
    t.intnest = s.intnest ∧ (∀ p, t.reg p = s.reg p) ∧ t.fAlt = s.fAlt ∧
    t.halted = u.halted ∧ t.repeating = u.repeating ∧
    ∀ a, ¬ touches .W (s.xsp - byteCount s.pcSize - 2) a →
      ¬ touches s.pcSize (s.xsp - byteCount s.pcSize) a → t.cell a = s.cell a

/-- The return from any entry whose frame is in RAM. -/
theorem returnsTo_of_enters (hinv : s.Inv)
    (hram : ∀ a, touches .W (s.xsp - byteCount s.pcSize - 2) a ∨
      touches s.pcSize (s.xsp - byteCount s.pcSize) a → s.area a = .ram)
    (h : s.Enters t V) (pc : Word32) (i r : BitVec 3) (g : Flags) (b : Bool)
    (q : Option Repeating) : (t.handled pc i r g b q).ReturnsTo s := by
  have hmax : t.max = s.max := h.kept.max
  have hproduct : t.product = s.product := h.kept.product
  have hstatus : t.memRead .W t.xsp = s.sr := by
    refine h.status.read hproduct fun k hk => hram _ (.inl ⟨k, hk, ?_⟩)
    rw [h.pointer]
  have hcounter : t.memRead s.pcSize (t.xsp + 2) = s.pc.setWidth _ := by
    refine h.counter.read hproduct fun k hk => hram _ (.inr ⟨k, hk, ?_⟩)
    rw [h.pointer, BitVec.sub_add_cancel]
  have hread (sz : Size) (a : Word32) :
      (t.handled pc i r g b q).memRead sz a = t.memRead sz a := memRead_congr rfl rfl rfl sz a
  refine ⟨_, reti_of_frame hinv hmax hproduct h.pointer ((hread _ _).trans hstatus)
    ((hread _ _).trans hcounter), rfl, ?sr, ?nesting, fun p => ?register, h.kept.fAlt, rfl, rfl,
    fun a hsr hpc => h.kept.memory a (not_or.mpr ⟨hsr, hpc⟩)⟩
  case sr => simp only [State.sr, State.handled, hmax]
  case nesting =>
    show (t.handled pc i r g b q).crFit .intnest (t.intnest - 1) = s.intnest
    rw [crFit_congr (t := t.handled pc i r g b q) hproduct, h.nesting, hinv.intnest_up_down]
  case register =>
    by_cases hp : p = .fixed .xsp
    · rw [hp]
      rfl
    · exact ((kept_withXsp (t.handled pc i r g b q) s.xsp).registers p hp).trans
        (h.kept.registers p hp)

end

/-- Settles O59: the return from the entry of SWI and from that of an interrupt, whose own pc, IFF,
RFP and flags are one of the choices of a handler. -/
theorem returnFromEntryRestoresThePast : Obligations.ReturnFromEntryRestoresThePast := by
  intro s V hinv hram
  have hswi := returnsTo_of_enters hinv hram (enters_swi (V := V) hinv.memory)
  have hint (L : BitVec 3) :=
    returnsTo_of_enters hinv hram (enters_enterInterrupt (L := L) (V := V) hinv.memory)
  refine ⟨fun L => hint L _ _ _ _ _ _, ?handled⟩
  case handled => exact List.forall_iff_forall_mem.mp ⟨hswi, hint 0⟩

end Sys2Proof.Machine
end

section
/-!
What one step and n steps of the rotates and shifts compute (48_rotate_shift.md R208, R210 to
R217).
-/

namespace Sys2Proof.Machine

/-! ## Rotations bit by bit -/

section

variable {w : Nat}

theorem getLsbD_rotateRight_eq_mod (x : BitVec w) (r i : Nat) :
    (x.rotateRight r).getLsbD i = (decide (i < w) && x.getLsbD ((r + i) % w)) := by
  by_cases hi : i < w
  · have hr : r % w < w := Nat.mod_lt _ (by omega)
    have hmod : (r + i) % w = (r % w + i) % w := by rw [Nat.mod_add_mod]
    rw [BitVec.getLsbD_rotateRight, hmod]
    by_cases hw : i < w - r % w
    · rw [Nat.mod_eq_of_lt (show r % w + i < w by omega)]
      simp only [hi, hw, decide_true, cond_true, Bool.true_and]
    · rw [Nat.mod_eq_sub_mod (show w ≤ r % w + i by omega),
        Nat.mod_eq_of_lt (show r % w + i - w < w by omega),
        show r % w + i - w = i - (w - r % w) by omega]
      simp only [hi, hw, decide_true, decide_false, cond_false, Bool.true_and]
  · rw [BitVec.getLsbD_of_ge _ _ (by omega)]
    simp [hi]

theorem rotateLeft_zero (x : BitVec w) : x.rotateLeft 0 = x := by
  simp [BitVec.rotateLeft_def, BitVec.ushiftRight_eq_zero]

theorem rotateRight_zero (x : BitVec w) : x.rotateRight 0 = x := by
  simp [BitVec.rotateRight_def]

theorem rotateLeft_add (x : BitVec w) (m n : Nat) :
    x.rotateLeft (m + n) = (x.rotateLeft m).rotateLeft n := by
  apply BitVec.eq_of_getMsbD_eq
  intro i hi
  have hmod : (n + i) % w < w := Nat.mod_lt _ (by omega)
  simp [BitVec.getMsbD_rotateLeft, hi, hmod, Nat.add_assoc]

theorem rotateRight_add (x : BitVec w) (m n : Nat) :
    x.rotateRight (m + n) = (x.rotateRight m).rotateRight n := by
  apply BitVec.eq_of_getLsbD_eq
  intro i hi
  have hmod : (n + i) % w < w := Nat.mod_lt _ (by omega)
  simp only [getLsbD_rotateRight_eq_mod, hi, hmod, Nat.add_assoc, Nat.add_mod_mod, decide_true,
    Bool.true_and]

theorem getLsbD_rotateLeft_one (x : BitVec w) (i : Nat) :
    (x.rotateLeft 1).getLsbD i =
      (decide (i < w) && if i = 0 then x.msb else x.getLsbD (i - 1)) := by
  rw [BitVec.getLsbD_rotateLeft, BitVec.msb_eq_getLsbD_last]
  rcases Nat.lt_trichotomy w 1 with hw | rfl | hw
  · simp [show w = 0 by omega]
  · cases i <;> simp
  · rw [Nat.mod_eq_of_lt hw]
    cases i with
    | zero => simp [show 0 < w by omega]
    | succ i => simp

theorem getLsbD_rotateRight_one (x : BitVec w) (i : Nat) :
    (x.rotateRight 1).getLsbD i =
      (decide (i < w) && if i = w - 1 then x.getLsbD 0 else x.getLsbD (i + 1)) := by
  rw [getLsbD_rotateRight_eq_mod, Nat.add_comm]
  by_cases hi : i < w
  · by_cases hlast : i = w - 1
    · rw [if_pos hlast, show i + 1 = w by omega, Nat.mod_self]
    · rw [if_neg hlast, Nat.mod_eq_of_lt (by omega)]
  · simp [hi]

/-! ## One step (48_rotate_shift.md R210 to R217) -/

/-- A bit moved in at the bottom. -/
theorem getLsbD_shiftLeft_or_bottom (v : BitVec w) (b : Bool) (i : Nat) :
    (v <<< 1 ||| (BitVec.ofBool b).setWidth w).getLsbD i =
      (decide (i < w) && if i = 0 then b else v.getLsbD (i - 1)) := by
  cases i with
  | zero => by_cases hw : 0 < w <;> simp [hw]
  | succ i =>
    rw [BitVec.getLsbD_or, BitVec.getLsbD_shiftLeft]
    simp

/-- A bit moved in at the top. -/
theorem getLsbD_shiftRight_or_top (v : BitVec w) (b : Bool) (i : Nat) :
    (v >>> 1 ||| (BitVec.ofBool b).setWidth w <<< (w - 1)).getLsbD i =
      (decide (i < w) && if i = w - 1 then b else v.getLsbD (i + 1)) := by
  by_cases hi : i < w
  · by_cases hlast : i = w - 1
    · subst hlast
      simp [hi, BitVec.getLsbD_of_ge v (1 + (w - 1)) (by omega)]
    · simp [hi, hlast, show i < w - 1 by omega, Nat.add_comm]
  · rw [BitVec.getLsbD_of_ge _ _ (by omega)]
    simp [hi]

variable (v : BitVec w) (c : Bool)

theorem shiftStep_rlc : shiftStep .rlc v c = (v.rotateLeft 1, v.msb) := by
  refine Prod.ext (BitVec.eq_of_getLsbD_eq fun i hi => ?_) rfl
  exact (getLsbD_shiftLeft_or_bottom v v.msb i).trans (getLsbD_rotateLeft_one v i).symm

theorem shiftStep_rrc : shiftStep .rrc v c = (v.rotateRight 1, v.getLsbD 0) := by
  refine Prod.ext (BitVec.eq_of_getLsbD_eq fun i hi => ?_) rfl
  exact (getLsbD_shiftRight_or_top v (v.getLsbD 0) i).trans (getLsbD_rotateRight_one v i).symm

theorem shiftStep_sra : shiftStep .sra v c = (v.sshiftRight 1, v.getLsbD 0) := by
  refine Prod.ext (BitVec.eq_of_getLsbD_eq fun i hi => ?_) rfl
  refine (getLsbD_shiftRight_or_top v v.msb i).trans ?_
  rw [BitVec.getLsbD_sshiftRight, Nat.add_comm 1 i]
  by_cases hlast : i = w - 1
  · simp [hlast, show ¬ w ≤ w - 1 by omega, show 0 < w by omega, show ¬ w - 1 + 1 < w by omega]
  · simp [hi, hlast, show i + 1 < w by omega]

/-- The operand linked with the carry, which stands above it (48_rotate_shift.md R212, R213). -/
def linked (p : BitVec w × Bool) : BitVec (1 + w) := BitVec.ofBool p.2 ++ p.1

theorem getLsbD_linked (p : BitVec w × Bool) (i : Nat) :
    (linked p).getLsbD i = if i = w then p.2 else p.1.getLsbD i := by
  rw [linked, BitVec.getLsbD_append]
  rcases Nat.lt_trichotomy i w with hi | rfl | hi
  · simp [hi, show i ≠ w by omega]
  · simp
  · simp [show ¬ i < w by omega, show i ≠ w by omega, show i - w ≠ 0 by omega,
      BitVec.getLsbD_of_ge p.1 i (by omega)]

theorem linked_shiftStep_rl (hw : 0 < w) :
    linked (shiftStep .rl v c) = (linked (v, c)).rotateLeft 1 := by
  apply BitVec.eq_of_getLsbD_eq
  intro i hi
  rw [getLsbD_rotateLeft_one, BitVec.msb_eq_getLsbD_last]
  simp only [getLsbD_linked, shiftStep, getLsbD_shiftLeft_or_bottom,
    BitVec.msb_eq_getLsbD_last, Nat.add_sub_cancel_left, if_true, hi, decide_true, Bool.true_and]
  by_cases htop : i = w
  · simp [htop, show w ≠ 0 by omega, show w - 1 ≠ w by omega]
  · simp [htop, show i < w by omega, show i - 1 ≠ w by omega]

theorem linked_shiftStep_rr (hw : 0 < w) :
    linked (shiftStep .rr v c) = (linked (v, c)).rotateRight 1 := by
  apply BitVec.eq_of_getLsbD_eq
  intro i hi
  rw [getLsbD_rotateRight_one]
  simp only [getLsbD_linked, shiftStep, getLsbD_shiftRight_or_top,
    Nat.add_sub_cancel_left, hi, decide_true, Bool.true_and]
  by_cases htop : i = w
  · simp [htop, show 0 ≠ w by omega]
  · simp [htop, show i < w by omega, show i + 1 = w ↔ i = w - 1 by omega]

end

/-! ## Steps in sequence (48_rotate_shift.md R208) -/

section

variable {w : Nat}

/-- The last step comes after the others. -/
theorem shiftSteps_succ (op : ShiftOp) (n : Nat) (v : BitVec w) (c : Bool) :
    shiftSteps op (n + 1) v c =
      shiftStep op (shiftSteps op n v c).1 (shiftSteps op n v c).2 := by
  induction n generalizing v c with
  | zero => rfl
  | succ n ih => exact ih _ _

/-- What one step turns into the next of a sequence `g`, n steps turn into its n-th. -/
theorem shiftSteps_eq {α : Type} {op : ShiftOp} (f : BitVec w × Bool → α) (g : Nat → α)
    (v : BitVec w) (c : Bool) (start : f (v, c) = g 0)
    (next : ∀ k p, f p = g k → f (shiftStep op p.1 p.2) = g (k + 1)) (n : Nat) :
    f (shiftSteps op n v c) = g n := by
  induction n with
  | zero => exact start
  | succ n ih =>
    rw [shiftSteps_succ]
    exact next n _ ih

variable (n : Nat) (v : BitVec w) (c : Bool)

theorem shiftSteps_rlc : (shiftSteps .rlc n v c).1 = v.rotateLeft n :=
  shiftSteps_eq Prod.fst (v.rotateLeft ·) v c (rotateLeft_zero v).symm
    (fun k p h => by simp only [shiftStep_rlc, h, rotateLeft_add]) n

theorem shiftSteps_rrc : (shiftSteps .rrc n v c).1 = v.rotateRight n :=
  shiftSteps_eq Prod.fst (v.rotateRight ·) v c (rotateRight_zero v).symm
    (fun k p h => by simp only [shiftStep_rrc, h, rotateRight_add]) n

theorem shiftSteps_rl (hw : 0 < w) :
    linked (shiftSteps .rl n v c) = (linked (v, c)).rotateLeft n :=
  shiftSteps_eq linked ((linked (v, c)).rotateLeft ·) v c (rotateLeft_zero _).symm
    (fun k p h => by rw [linked_shiftStep_rl _ _ hw, h, rotateLeft_add]) n

theorem shiftSteps_rr (hw : 0 < w) :
    linked (shiftSteps .rr n v c) = (linked (v, c)).rotateRight n :=
  shiftSteps_eq linked ((linked (v, c)).rotateRight ·) v c (rotateRight_zero _).symm
    (fun k p h => by rw [linked_shiftStep_rr _ _ hw, h, rotateRight_add]) n

theorem shiftSteps_sll : (shiftSteps .sll n v c).1 = v <<< n :=
  shiftSteps_eq Prod.fst (v <<< ·) v c (by simp)
    (fun k p h => by simp only [shiftStep, h, BitVec.shiftLeft_add]) n

theorem shiftSteps_sra : (shiftSteps .sra n v c).1 = v.sshiftRight n :=
  shiftSteps_eq Prod.fst (v.sshiftRight ·) v c (by simp)
    (fun k p h => by simp only [shiftStep_sra, h, BitVec.sshiftRight_add]) n

theorem shiftSteps_srl : (shiftSteps .srl n v c).1 = v >>> n :=
  shiftSteps_eq Prod.fst (v >>> ·) v c (by simp)
    (fun k p h => by simp only [shiftStep, h, BitVec.shiftRight_add]) n

/-- SLA and SLL are one operation (48_rotate_shift.md R214, R216). -/
theorem shiftSteps_sla_eq_sll : shiftSteps .sla n v c = shiftSteps .sll n v c :=
  shiftSteps_eq id (fun k => shiftSteps .sll k v c) v c rfl
    (fun k p h => by rw [shiftSteps_succ, ← h]; rfl) n

/-! ## The carry after the last step -/

theorem shiftSteps_rlc_carry :
    (shiftSteps .rlc (n + 1) v c).2 = (v.rotateLeft (n + 1)).getLsbD 0 := by
  rw [shiftSteps_succ, shiftStep_rlc, shiftSteps_rlc, rotateLeft_add, getLsbD_rotateLeft_one]
  cases w <;> simp

theorem shiftSteps_rrc_carry : (shiftSteps .rrc (n + 1) v c).2 = (v.rotateRight (n + 1)).msb := by
  rw [shiftSteps_succ, shiftStep_rrc, shiftSteps_rrc, rotateRight_add,
    BitVec.msb_eq_getLsbD_last ((v.rotateRight n).rotateRight 1), getLsbD_rotateRight_one]
  cases w <;> simp

theorem shiftSteps_sll_carry : (shiftSteps .sll (n + 1) v c).2 =
    (decide (n + 1 ≤ w) && v.getLsbD (w - (n + 1))) := by
  rw [shiftSteps_succ, shiftSteps_sll]
  show (v <<< n).msb = _
  rw [BitVec.msb_eq_getLsbD_last, BitVec.getLsbD_shiftLeft, Nat.sub_sub, Nat.add_comm 1 n]
  by_cases hn : n + 1 ≤ w
  · simp [hn, show 0 < w by omega, show ¬ w - 1 < n by omega]
  · have hout : w = 0 ∨ w - 1 < n := by omega
    rcases hout with h | h <;> simp [hn, h]

theorem shiftSteps_sra_carry (hw : 0 < w) :
    (shiftSteps .sra (n + 1) v c).2 = v.getLsbD (Nat.min n (w - 1)) := by
  rw [shiftSteps_succ, shiftStep_sra, shiftSteps_sra, BitVec.getLsbD_sshiftRight,
    BitVec.msb_eq_getLsbD_last]
  by_cases hn : n < w
  · have hmin : Nat.min n (w - 1) = n := Nat.min_eq_left (by omega)
    simp [hn, hmin, hw.ne']
  · have hmin : Nat.min n (w - 1) = w - 1 := Nat.min_eq_right (by omega)
    simp [hn, hmin, hw.ne']

theorem shiftSteps_srl_carry : (shiftSteps .srl (n + 1) v c).2 = v.getLsbD n := by
  rw [shiftSteps_succ, shiftSteps_srl]
  exact BitVec.getLsbD_ushiftRight v n 0

end

theorem shiftCount_eq (c : BitVec 4) : shiftCount c = if c = 0 then 16 else c.toNat := by
  have h : c.toNat = 0 ↔ c = 0 := by simp [BitVec.toNat_eq]
  simp only [shiftCount, h]

/-- Settles O24: the values by induction on the steps, the carries from the last step. -/
theorem shiftsRotateAndShiftByTheirCount : Obligations.ShiftsRotateAndShiftByTheirCount := by
  refine ⟨shiftCount_eq, fun sz v c n _ => ?_⟩
  have hw : 0 < sz.bits := (halfBits_pos sz).trans_le (Nat.div_le_self _ _)
  refine ⟨shiftSteps_rlc n v c, shiftSteps_rrc n v c, shiftSteps_rl n v c hw,
    shiftSteps_rr n v c hw, ?sla, shiftSteps_sll n v c, shiftSteps_sra n v c,
    shiftSteps_srl n v c, fun hn => ?carries⟩
  case sla =>
    rw [shiftSteps_sla_eq_sll]
    exact shiftSteps_sll n v c
  case carries =>
    obtain ⟨k, rfl⟩ : ∃ k, n = k + 1 := ⟨n - 1, by omega⟩
    rw [shiftSteps_sla_eq_sll]
    exact ⟨shiftSteps_rlc_carry k v c, shiftSteps_rrc_carry k v c, shiftSteps_sll_carry k v c,
      shiftSteps_sll_carry k v c, shiftSteps_sra_carry k v c hw, shiftSteps_srl_carry k v c⟩

end Sys2Proof.Machine
end

section
/-!
The forms of the rotates and shifts on registers and memory, and RLD and RRD
(48_rotate_shift.md R208, R209, R218, R219).
-/

namespace Sys2Proof.Machine

/-! ## The eight rotates and shifts -/

section

variable {s : State} {op : ShiftOp} {sz : Size}

/-- A pre-decrement changes neither C nor the next free bit. -/
theorem preStep_shiftResult (s : State) (e : Eff) (op : ShiftOp) (n : Nat) (sz : Size)
    (v : BitVec sz.bits) : (s.preStep e).shiftResult op n sz v = s.shiftResult op n sz v := by
  rw [State.shiftResult, preStep_f, preStep_freeBit, State.shiftResult]

theorem shiftReg_setsReg {dst : Out Slot} {d : Slot} (hd : dst = .next d) (hf : d.fits sz)
    (c : BitVec 4) :
    let x := s.shiftResult op (shiftCount c) sz (s.slot sz d)
    ∃ t, shiftReg op sz c dst s = .next t ∧ s.SetsReg t sz d x.1 ∧ t.f = x.2 := by
  subst hd
  exact ⟨_, rfl, setsReg_withFlags_drawn hf _ 1, rfl⟩

theorem shiftMem_setsMem {m : MemOp} {e : Eff} (hwf : Memory.wf s.mem = true)
    (he : s.eff m = .next e) :
    let x := s.shiftResult op 1 sz ((s.preStep e).memRead sz e.addr)
    ∃ t, shiftMem op sz m s = .next t ∧ s.SetsMem t sz e x.1 ∧ t.f = x.2 := by
  rw [← preStep_shiftResult s e]
  exact ⟨_, withMem_of_eff _ he,
    setsMem_of he hwf ((kept_withFlags _ _).trans (kept_drawn _ _)) (by simp), by simp⟩

theorem exec_shift_mem (s : State) (op : ShiftOp) (sz : Size) (m : MemOp) :
    exec (op.mem sz m) s = shiftMem op sz m s := by
  cases op <;> rfl

end

/-- Settles O35: each form is `shiftReg` or `shiftMem` of its operation, with the count given, in A,
or one step. -/
theorem shiftForms : Obligations.ShiftForms := by
  intro s op sz
  refine ⟨fun n r d hd => ?regImm, fun r d hd => ?regA, fun m e hwf he => ?mem⟩
  case regImm =>
    rw [exec_shift_regImm]
    exact shiftReg_setsReg hd (regSlot_fits hd) n
  case regA =>
    rw [exec_shift_regA]
    exact shiftReg_setsReg hd (regSlot_fits hd) (s.regA.setWidth 4)
  case mem =>
    rw [exec_shift_mem]
    exact shiftMem_setsMem hwf he

/-! ## RLD and RRD -/

section

variable {s : State} {m : MemOp} {e : Eff}

/-- The new A and the new byte of RLD (48_rotate_shift.md R218). -/
def digitsLeft (a : BitVec 8) (b : Byte) : BitVec 8 × Byte :=
  (a.extractLsb' 4 4 ++ b.extractLsb' 4 4, b.extractLsb' 0 4 ++ a.extractLsb' 0 4)

/-- The new A and the new byte of RRD (48_rotate_shift.md R219). -/
def digitsRight (a : BitVec 8) (b : Byte) : BitVec 8 × Byte :=
  (a.extractLsb' 4 4 ++ b.extractLsb' 0 4, a.extractLsb' 0 4 ++ b.extractLsb' 4 4)

theorem exec_rld (m : MemOp) (s : State) : exec (.rld m) s = rotateDigits digitsLeft m s := rfl

theorem exec_rrd (m : MemOp) (s : State) : exec (.rrd m) s = rotateDigits digitsRight m s := rfl

/-- A byte is stored, and A written after it with its flags. -/
theorem rotateDigits_loads_and_stores (hwf : Memory.wf s.mem = true) (he : s.eff m = .next e)
    (g : BitVec 8 → Byte → BitVec 8 × Byte) :
    let u := s.preStep e
    let x := g u.regA (u.byte e.addr)
    ∃ t, rotateDigits g m s = .next t ∧
      s.LoadsReg t .B e (u.curSlot .xwa) x.1 (touches .B e.addr) ∧
      s.Stored t .B e.addr x.2 ∧ t.f = digitFlags x.1 s.f := by
  intro u x
  have hwf' : Memory.wf u.mem = true := by simpa [u] using hwf
  refine ⟨_, withMem_of_eff _ he, ?loads, ?stored, ?flags⟩
  case loads =>
    exact loadsReg_of (sz := .B) he (curSlot_fits u .xwa)
      ((kept_memWrite u .B e.addr x.2).trans (kept_withFlags _ _)) (by simp)
  case stored =>
    exact (stored_memWrite u .B e.addr x.2 hwf').of_cells (fun _ => cell_congr (by simp [u]) _)
      (by simp [u]) fun _ => cell_congr (setSlotAndStep_mem ..) _
  case flags => rw [setSlotAndStep_f, preStep_f]

end

/-- Settles O36: both are `rotateDigits`, with the digits moved to the left or to the right. -/
theorem digitRotateForms : Obligations.DigitRotateForms := by
  intro s m e hwf he
  rw [exec_rld, exec_rrd]
  exact ⟨rotateDigits_loads_and_stores hwf he digitsLeft,
    rotateDigits_loads_and_stores hwf he digitsRight⟩

end Sys2Proof.Machine
end

section
/-!
SUPPORT. Reading back what the encoder writes (30_encoding.md R60 to R89): operand bytes,
prefixes, and every row of the opcode maps.
-/

namespace Sys2Proof

/-! ## Operand bytes -/

/-- A read that succeeds goes on with what it read. -/
theorem bind_of_ok {α β : Type} {x : Except Reject α} {a : α} (h : x = .ok a)
    (f : α → Except Reject β) : (x >>= f) = f a := by
  rw [h]; rfl

theorem append_extract_bytes (v : BitVec 16) : v.extractLsb' 8 8 ++ v.extractLsb' 0 8 = v := by
  apply BitVec.eq_of_getLsbD_eq
  intro i hi
  simp only [BitVec.getLsbD_append, BitVec.getLsbD_extractLsb']
  by_cases h8 : i < 8
  · simp [h8]
  · simp [h8, show i - 8 < 8 by omega, show 8 + (i - 8) = i by omega]

theorem take16_bytes16 (v : BitVec 16) (t : List Byte) :
    take16 (bytes16 v ++ t) = .ok (v, t) :=
  congrArg (fun x => Except.ok (x, t)) (append_extract_bytes v)

theorem take24_bytes24 (v : BitVec 24) (t : List Byte) :
    take24 (bytes24 v ++ t) = .ok (v, t) := by
  refine congrArg (fun x => Except.ok (x, t)) (BitVec.eq_of_getLsbD_eq fun i hi => ?_)
  simp only [BitVec.getLsbD_append, BitVec.getLsbD_extractLsb']
  by_cases h8 : i < 8
  · simp [h8]
  · by_cases h16 : i - 8 < 8
    · simp [h8, h16, show 8 + (i - 8) = i by omega]
    · simp [h8, h16, show i - 8 - 8 < 8 by omega, show 16 + (i - 8 - 8) = i by omega]

theorem take32_bytes32 (v : BitVec 32) (t : List Byte) :
    take32 (bytes32 v ++ t) = .ok (v, t) := by
  refine congrArg (fun x => Except.ok (x, t)) (BitVec.eq_of_getLsbD_eq fun i hi => ?_)
  simp only [BitVec.getLsbD_append, BitVec.getLsbD_extractLsb']
  by_cases h8 : i < 8
  · simp [h8]
  · by_cases h16 : i - 8 < 8
    · simp [h8, h16, show 8 + (i - 8) = i by omega]
    · by_cases h24 : i - 8 - 8 < 8
      · simp [h8, h16, h24, show 16 + (i - 8 - 8) = i by omega]
      · simp [h8, h16, h24, show i - 8 - 8 - 8 < 8 by omega,
          show 24 + (i - 8 - 8 - 8) = i by omega]

theorem takeImm_immBytes (sz : Size) (v : BitVec sz.bits) (t : List Byte) :
    takeImm sz (immBytes sz v ++ t) = .ok (v, t) := by
  cases sz with
  | B => rfl
  | W => exact take16_bytes16 v t
  | L => exact take32_bytes32 v t

theorem takeMemImm_immBytes {sz : Size} (h : sz ≠ .L) (v : BitVec sz.bits) (t : List Byte) :
    takeMemImm sz (immBytes sz v ++ t) = .ok (v, t) :=
  (if_neg h).trans (takeImm_immBytes sz v t)

theorem take4_setWidth (n : BitVec 4) (t : List Byte) :
    take4 (n.setWidth 8 :: t) = .ok (n, t) := 
  congrArg (fun x => Except.ok (x, t)) (by simp : (n.setWidth 8).setWidth 4 = n)

theorem take3_setWidth (n : BitVec 3) (t : List Byte) :
    take3 (n.setWidth 8 :: t) = .ok (n, t) := by
  have hn : ¬ (n.setWidth 8 : BitVec 8).toNat > 7 := by
    have := n.isLt
    simp
    omega
  refine (if_neg hn).trans (congrArg (fun x => Except.ok (x, t)) ?_)
  simp

/-! ## Fields -/

/-- A fact about a 3-bit field, from its eight values. -/
theorem forall_three {P : BitVec 3 → Prop} (h0 : P 0) (h1 : P 1) (h2 : P 2) (h3 : P 3)
    (h4 : P 4) (h5 : P 5) (h6 : P 6) (h7 : P 7) (R : BitVec 3) : P R := by
  obtain ⟨n, hn⟩ := R
  interval_cases n <;> assumption

/-! ## Prefixes -/

theorem parse_regPrefix (sz : Size) (r : RegOp) (op : Byte) (t : List Byte) :
    parse (regPrefix sz r ++ op :: t) = parseReg sz r op t := by
  cases r with
  | short c => cases sz <;> revert c <;> exact forall_three rfl rfl rfl rfl rfl rfl rfl rfl
  | ext code => cases sz <;> rfl

/-- The sub-byte of `(r32)`, `(r32 + d16)`, `(-r32)` and `(r32+)`: a register and a 2-bit code. -/
theorem setWidth_sub (r32 : BitVec 6) (c : BitVec 2) : (r32 ++ c : BitVec 8).setWidth 2 = c := by
  apply BitVec.eq_of_getLsbD_eq
  intro i hi
  have happ : (r32 ++ c).getLsbD i = _ := BitVec.getLsbD_append
  rw [BitVec.getLsbD_setWidth, happ]
  simp [hi]

theorem extract_sub (r32 : BitVec 6) (c : BitVec 2) :
    (r32 ++ c : BitVec 8).extractLsb' 2 6 = r32 := by
  apply BitVec.eq_of_getLsbD_eq
  intro i hi
  have happ : (r32 ++ c).getLsbD (2 + i) = _ := BitVec.getLsbD_append
  rw [BitVec.getLsbD_extractLsb', happ, if_neg (by omega), Nat.add_sub_cancel_left]
  simp [hi]

theorem parseStep_code (r32 : BitVec 6) (step : Step) :
    parseStep (r32 ++ step.code) = .ok step := by
  rw [parseStep, setWidth_sub]
  cases step <;> rfl

theorem parseSubMode_indExt (r32 : BitVec 6) (t : List Byte) :
    parseSubMode ((r32 ++ 0#2) :: t) = .ok (.indExt r32, t) := by
  rw [parseSubMode, take8, bind_of_ok rfl]
  simp only [setWidth_sub, extract_sub]
  rfl

theorem parseSubMode_disp16 (r32 : BitVec 6) (d : BitVec 16) (t : List Byte) :
    parseSubMode ((r32 ++ 1#2) :: (bytes16 d ++ t)) = .ok (.disp16 r32 d, t) := by
  rw [parseSubMode, take8, bind_of_ok rfl]
  simp only [setWidth_sub, extract_sub]
  exact bind_of_ok (take16_bytes16 d t) _

/-- A memory mode is read back after the first byte of every SRC and DST prefix. -/
theorem parseMode_modeBits {base : Byte} (hb : base ∈ [0x80, 0x90, 0xA0, 0xB0]) (m : MemOp)
    (t : List Byte) : parseMode (base ||| modeBits m) (modeBytes m ++ t) = .ok (m, t) := by
  have hbase : base = 0x80 ∨ base = 0x90 ∨ base = 0xA0 ∨ base = 0xB0 := by simpa using hb
  cases m with
  | ind R | disp8 R d =>
    simp only [modeBits]
    rcases hbase with rfl | rfl | rfl | rfl <;> revert R <;>
      exact forall_three rfl rfl rfl rfl rfl rfl rfl rfl
  | abs8 a | index8 base idx | index16 base idx =>
    simp only [modeBits]
    rcases hbase with rfl | rfl | rfl | rfl <;> rfl
  | abs16 a =>
    simp only [modeBits]
    rcases hbase with rfl | rfl | rfl | rfl <;> exact bind_of_ok (take16_bytes16 a t) _
  | abs24 a =>
    simp only [modeBits]
    rcases hbase with rfl | rfl | rfl | rfl <;> exact bind_of_ok (take24_bytes24 a t) _
  | indExt r32 =>
    simp only [modeBits]
    rcases hbase with rfl | rfl | rfl | rfl <;> exact parseSubMode_indExt r32 t
  | disp16 r32 d =>
    simp only [modeBits]
    rcases hbase with rfl | rfl | rfl | rfl <;> exact parseSubMode_disp16 r32 d t
  | preDec r32 step =>
    have hsub := bind_of_ok (β := MemOp × List Byte) (parseStep_code r32 step)
    have hreg := congrArg (fun x => Except.ok (ε := Reject) (MemOp.preDec x step, t))
      (extract_sub r32 step.code)
    simp only [modeBits]
    rcases hbase with rfl | rfl | rfl | rfl <;> exact (hsub _).trans hreg
  | postInc r32 step =>
    have hsub := bind_of_ok (β := MemOp × List Byte) (parseStep_code r32 step)
    have hreg := congrArg (fun x => Except.ok (ε := Reject) (MemOp.postInc x step, t))
      (extract_sub r32 step.code)
    simp only [modeBits]
    rcases hbase with rfl | rfl | rfl | rfl <;> exact (hsub _).trans hreg

theorem parse_srcByte (sz : Size) (m : MemOp) (t : List Byte) :
    parse ((0x80 ||| sizeBits sz ||| modeBits m) :: t) =
      parseSrcFormat (0x80 ||| sizeBits sz ||| modeBits m) t := by
  cases m with
  | ind R | disp8 R d =>
    simp only [modeBits]
    cases sz <;> revert R <;> exact forall_three rfl rfl rfl rfl rfl rfl rfl rfl
  | _ =>
    simp only [modeBits]
    cases sz <;> rfl

theorem parse_dstByte (m : MemOp) (t : List Byte) :
    parse ((0xB0 ||| modeBits m) :: t) = parseDstFormat (0xB0 ||| modeBits m) t := by
  cases m with
  | ind R | disp8 R d =>
    simp only [modeBits]
    revert R
    exact forall_three rfl rfl rfl rfl rfl rfl rfl rfl
  | _ =>
    simp only [modeBits]
    rfl

theorem parseSize_srcByte (sz : Size) (m : MemOp) :
    parseSize (0x80 ||| sizeBits sz ||| modeBits m) = sz := by
  cases m with
  | ind R | disp8 R d =>
    simp only [modeBits]
    cases sz <;> revert R <;> exact forall_three rfl rfl rfl rfl rfl rfl rfl rfl
  | _ =>
    simp only [modeBits]
    cases sz <;> rfl

/-- What `parse` reads after a REG prefix and the operation byte. -/
theorem parse_regOp (sz : Size) (r : RegOp) (op : Byte) (t : List Byte) :
    parse (regPrefix sz r ++ [op] ++ t) = parseReg sz r op t := by
  rw [List.append_assoc]
  exact parse_regPrefix sz r op t

theorem parse_regOp_append (sz : Size) (r : RegOp) (op : Byte) (l t : List Byte) :
    parse (regPrefix sz r ++ [op] ++ l ++ t) = parseReg sz r op (l ++ t) := by
  rw [List.append_assoc]
  exact parse_regOp sz r op (l ++ t)

/-- What `parse` reads after a SRC prefix and the operation byte. -/
theorem parse_srcOp (sz : Size) (m : MemOp) (op : Byte) (t : List Byte) :
    parse (srcPrefix sz m ++ [op] ++ t) = parseSrc sz m op t := by
  have hmode : parseMode (0x80 ||| sizeBits sz ||| modeBits m) (modeBytes m ++ ([op] ++ t)) =
      .ok (m, [op] ++ t) := parseMode_modeBits (by cases sz <;> decide) m _
  have hread := bind_of_ok (β := Instr × List Byte) hmode
  rw [List.append_assoc]
  refine (parse_srcByte sz m _).trans ((hread _).trans ?_)
  exact congrArg (fun z => parseSrc z m op t) (parseSize_srcByte sz m)

theorem parse_srcOp_append (sz : Size) (m : MemOp) (op : Byte) (l t : List Byte) :
    parse (srcPrefix sz m ++ [op] ++ l ++ t) = parseSrc sz m op (l ++ t) := by
  rw [List.append_assoc]
  exact parse_srcOp sz m op (l ++ t)

/-- No memory operand is spelled like LDAR, F3H:13H (41_load.md R104). -/
theorem modeBytes_not_ldar (m : MemOp) (op : Byte) (t : List Byte) :
    ¬ (0xB0 ||| modeBits m = 0xF3 ∧ (modeBytes m ++ ([op] ++ t)).head? = some 0x13) := by
  rintro ⟨hbyte, hhead⟩
  have hsub : ∀ (r32 : BitVec 6) (c : BitVec 2), (r32 ++ c : BitVec 8) = 0x13 → c = 3 :=
    fun r32 c h => (setWidth_sub r32 c).symm.trans (congrArg (BitVec.setWidth 2) h)
  cases m with
  | ind R | disp8 R d =>
    simp only [modeBits] at hbyte
    clear hhead
    revert R
    decide
  | abs8 a | abs16 a | abs24 a | preDec r32 step | postInc r32 step =>
    simp only [modeBits] at hbyte
    exact absurd hbyte (by decide)
  | index8 base idx | index16 base idx =>
    exact absurd (Option.some.inj hhead) (by decide)
  | indExt r32 => exact absurd (hsub r32 0 (Option.some.inj hhead)) (by decide)
  | disp16 r32 d => exact absurd (hsub r32 1 (Option.some.inj hhead)) (by decide)

/-- What `parse` reads after a DST prefix and the operation byte. -/
theorem parse_dstOp (m : MemOp) (op : Byte) (t : List Byte) :
    parse (dstPrefix m ++ [op] ++ t) = parseDst (0xB0 ||| modeBits m) m op t := by
  have hmode : parseMode (0xB0 ||| modeBits m) (modeBytes m ++ ([op] ++ t)) =
      .ok (m, [op] ++ t) := parseMode_modeBits (by decide) m _
  have hread := bind_of_ok (β := Instr × List Byte) hmode
  rw [List.append_assoc]
  exact (parse_dstByte m _).trans ((if_neg (modeBytes_not_ldar m op t)).trans (hread _))

theorem parse_dstOp_append (m : MemOp) (op : Byte) (l t : List Byte) :
    parse (dstPrefix m ++ [op] ++ l ++ t) = parseDst (0xB0 ||| modeBits m) m op (l ++ t) := by
  rw [List.append_assoc]
  exact parse_dstOp m op (l ++ t)

/-- An operation on bytes and words only is not one on long words. -/
theorem ne_long_of_wellFormed {sz : Size} {rest : List (Option Reject)}
    (h : (firstOf (sizeIn [.B, .W] sz :: rest)).isNone = true) : sz ≠ .L := by
  rintro rfl
  exact absurd h (by simp [sizeIn, firstOf])

/-- Every row of the opcode maps reads back what the encoder writes. -/
theorem parse_encode {i : Instr} (h : WellFormed i = true) (t : List Byte) :
    parse (encode i ++ t) = .ok (i, t) := by
  cases i with
  | nop | pushSR | popSR | min | halt | di | reti | ldA8I8 a v | pushI8 v | incf | decf | ret
    | rcf | scf | ccf | zcf | pushA | popA | exFF | pushF | popF | ldx a v =>
    rfl
  | ei n =>
    have hn : n ≠ 7 := by
      rintro rfl
      exact absurd h (by decide)
    exact (bind_of_ok (take3_setWidth n t) _).trans
      (congrArg (fun x => Except.ok (x, t)) (if_neg hn))
  | ldf n => exact bind_of_ok (take3_setWidth n t) _
  | ldwA8I16 a v =>
    exact (bind_of_ok (x := take8 (a :: (bytes16 v ++ t))) rfl _).trans
      (bind_of_ok (take16_bytes16 v t) _)
  | pushwI16 v | retd v | jp16 v | call16 v | calr v =>
    exact bind_of_ok (take16_bytes16 v t) _
  | jp24 a | call24 a => exact bind_of_ok (take24_bytes24 a t) _
  | ldar sz R d =>
    have hread (op : Byte) := bind_of_ok (β := Instr × List Byte) (take16_bytes16 d (op :: t))
    cases sz with
    | B => exact absurd h (by simp [WellFormed, illFormed, sizeIn])
    | W | L =>
      clear h
      revert R
      exact forall_three (hread _ _) (hread _ _) (hread _ _) (hread _ _) (hread _ _) (hread _ _)
        (hread _ _) (hread _ _)
  | ldRI8 R _ | pushRW R | pushRL R | popRW R | popRL R | swi R =>
    clear h
    revert R
    exact forall_three rfl rfl rfl rfl rfl rfl rfl rfl
  | ldRI16 R v =>
    have hread := bind_of_ok (β := Instr × List Byte) (take16_bytes16 v t)
    clear h
    revert R
    exact forall_three (hread _) (hread _) (hread _) (hread _) (hread _) (hread _) (hread _)
      (hread _)
  | ldRI32 R v =>
    have hread := bind_of_ok (β := Instr × List Byte) (take32_bytes32 v t)
    clear h
    revert R
    exact forall_three (hread _) (hread _) (hread _) (hread _) (hread _) (hread _) (hread _)
      (hread _)
  | jr cc _ | retcc cc => cases cc <;> rfl
  | jrl cc d => cases cc <;> exact bind_of_ok (take16_bytes16 d t) _
  | ldrI sz r imm | mulrrI sz r imm | mulsrrI sz r imm | divrrI sz r imm | divsrrI sz r imm
    | addrI sz r imm | adcrI sz r imm | subrI sz r imm | sbcrI sz r imm | andrI sz r imm
    | xorrI sz r imm | orrI sz r imm | cprI sz r imm =>
    exact (parse_regOp_append ..).trans (bind_of_ok (takeImm_immBytes ..) _)
  | pushr sz r | popr sz r | cplr sz r | negr sz r | unlk r | bs1f r | bs1b r | daa r | extz sz r
    | exts sz r | paa sz r | mirr r | mula r | andcfAr sz r | orcfAr sz r | xorcfAr sz r
    | ldcfAr sz r | stcfAr sz r | rlcAr sz r | rrcAr sz r | rlAr sz r | rrAr sz r | slaAr sz r
    | sraAr sz r | sllAr sz r | srlAr sz r =>
    exact parse_regOp ..
  | link r d | minc1 m r | minc2 m r | minc4 m r | mdec1 m r | mdec2 m r | mdec4 m r =>
    exact (parse_regOp_append ..).trans (bind_of_ok (take16_bytes16 ..) _)
  | djnz sz r d | ldcCr sz cr r | ldcR sz r cr =>
    exact parse_regOp_append ..
  | andcfNr sz n r | orcfNr sz n r | xorcfNr sz n r | ldcfNr sz n r | stcfNr sz n r
    | resNr sz n r | setNr sz n r | chgNr sz n r | bitNr sz n r | tsetNr sz n r | rlcNr sz n r
    | rrcNr sz n r | rlNr sz n r | rrNr sz n r | slaNr sz n r | sraNr sz n r | sllNr sz n r
    | srlNr sz n r =>
    exact (parse_regOp_append ..).trans (bind_of_ok (take4_setWidth ..) _)
  | mulRr sz R r | mulsRr sz R r | divRr sz R r | divsRr sz R r | incNr sz R r | decNr sz R r
    | addRr sz R r | ldRr sz R r | adcRr sz R r | ldrR sz r R | subRr sz R r | ldrN sz r R
    | sbcRr sz R r | exRr sz R r | andRr sz R r | xorRr sz R r | cprN sz r R | orRr sz R r
    | cpRr sz R r =>
    refine (parse_regOp ..).trans ?_
    clear h
    revert R
    exact forall_three rfl rfl rfl rfl rfl rfl rfl rfl
  | scc sz cc r =>
    refine (parse_regOp ..).trans ?_
    cases cc <;> rfl
  | ldmI8 m v => exact parse_dstOp_append ..
  | ldwmI16 m v | ldmA16 m a | ldwmA16 m a =>
    exact (parse_dstOp_append ..).trans (bind_of_ok (take16_bytes16 ..) _)
  | popm m | popwm m | andcfAm m | orcfAm m | xorcfAm m | ldcfAm m | stcfAm m =>
    exact parse_dstOp ..
  | ldaW R m | ldaL R m | ldmRB m R | ldmRW m R | ldmRL m R | andcfNm R m | orcfNm R m
    | xorcfNm R m | ldcfNm R m | stcfNm R m | tsetNm R m | resNm R m | setNm R m | chgNm R m
    | bitNm R m =>
    refine (parse_dstOp ..).trans ?_
    clear h
    revert R
    exact forall_three rfl rfl rfl rfl rfl rfl rfl rfl
  | jpm cc m | callm cc m =>
    refine (parse_dstOp ..).trans ?_
    cases cc <;> rfl
  | pushm sz m | rld m | rrd m | rlcm sz m | rrcm sz m | rlm sz m | rrm sz m | slam sz m
    | sram sz m | sllm sz m | srlm sz m =>
    exact parse_srcOp ..
  | ldi sz p | ldir sz p | ldd sz p | lddr sz p =>
    refine (parse_srcOp ..).trans ?_
    cases p <;> rfl
  | cpi sz R | cpir sz R | cpd sz R | cpdr sz R => exact parse_srcOp ..
  | ldA16m sz a m =>
    exact (parse_srcOp_append ..).trans (bind_of_ok (take16_bytes16 ..) _)
  | ldRm sz R m | exmR sz m R | mulRm sz R m | mulsRm sz R m | divRm sz R m | divsRm sz R m
    | incNm sz R m | decNm sz R m | addRm sz R m | addmR sz m R | adcRm sz R m | adcmR sz m R
    | subRm sz R m | submR sz m R | sbcRm sz R m | sbcmR sz m R | andRm sz R m | andmR sz m R
    | xorRm sz R m | xormR sz m R | orRm sz R m | ormR sz m R | cpRm sz R m | cpmR sz m R =>
    refine (parse_srcOp ..).trans ?_
    clear h
    revert R
    exact forall_three rfl rfl rfl rfl rfl rfl rfl rfl
  | addmI sz m imm | adcmI sz m imm | submI sz m imm | sbcmI sz m imm | andmI sz m imm
    | xormI sz m imm | ormI sz m imm | cpmI sz m imm =>
    exact (parse_srcOp_append ..).trans
      (bind_of_ok (takeMemImm_immBytes (ne_long_of_wellFormed h) ..) _)

/-- Settles O1: the parser reads every well-formed instruction back, and then no check refuses
it. -/
theorem decodeReadsEncodedInstruction : Obligations.DecodeReadsEncodedInstruction := by
  intro i t h
  have hnone : illFormed i = none := by simpa [WellFormed] using h
  simp [decode, parse_encode h, hnone]

end Sys2Proof
end

section
/-!
SUPPORT. What the parser has read: each of its functions consumes a head of the bytes, and
what it consumes is the encoding of the instruction it answers, but for the bits that the core
ignores (30_encoding.md R77, 47_control.md R199).
-/

namespace Sys2Proof

open Sys2Proof.Machine

/-! ## Bytes and their fields -/

theorem eq_ofNat_of_toNat {w k : Nat} {x : BitVec w} (h : x.toNat = k) : x = BitVec.ofNat w k := by
  rw [← h, BitVec.ofNat_toNat, BitVec.setWidth_eq]

/-- A byte of a value is a digit of its number to the base 2^8. -/
theorem extractByte_eq {w : Nat} {x : BitVec w} {k : Nat} {b : Byte}
    (h : x.toNat / 2 ^ k % 2 ^ 8 = b.toNat) : x.extractLsb' k 8 = b := by
  apply BitVec.eq_of_toNat_eq
  rw [BitVec.extractLsb'_toNat, Nat.shiftRight_eq_div_pow, h]

theorem bytes16_append (b0 b1 : Byte) : bytes16 (b1 ++ b0) = [b0, b1] := by
  have h0 := b0.isLt
  have h1 := b1.isLt
  have hx : BitVec.toNat (b1 ++ b0 : BitVec 16) = _ := toNat_append_add b1 b0
  simp only [bytes16, List.cons.injEq, and_true]
  exact ⟨extractByte_eq (by omega), extractByte_eq (by omega)⟩

theorem bytes24_append (b0 b1 b2 : Byte) : bytes24 (b2 ++ b1 ++ b0) = [b0, b1, b2] := by
  have h0 := b0.isLt
  have h1 := b1.isLt
  have h2 := b2.isLt
  have hy := toNat_append_add b2 b1
  have hx : BitVec.toNat (b2 ++ b1 ++ b0 : BitVec 24) = _ := toNat_append_add (b2 ++ b1) b0
  simp only [bytes24, List.cons.injEq, and_true]
  exact ⟨extractByte_eq (by omega), extractByte_eq (by omega), extractByte_eq (by omega)⟩

theorem bytes32_append (b0 b1 b2 b3 : Byte) :
    bytes32 (b3 ++ b2 ++ b1 ++ b0) = [b0, b1, b2, b3] := by
  have h0 := b0.isLt
  have h1 := b1.isLt
  have h2 := b2.isLt
  have h3 := b3.isLt
  have hz := toNat_append_add b3 b2
  have hy := toNat_append_add (b3 ++ b2) b1
  have hx : BitVec.toNat (b3 ++ b2 ++ b1 ++ b0 : BitVec 32) = _ :=
    toNat_append_add (b3 ++ b2 ++ b1) b0
  simp only [bytes32, List.cons.injEq, and_true]
  exact ⟨extractByte_eq (by omega), extractByte_eq (by omega), extractByte_eq (by omega),
    extractByte_eq (by omega)⟩

/-- A byte of a row of eight operations is the row's first with its 3-bit field. -/
theorem low3_field {b : Byte} {j : Nat} (h : b.toNat / 8 = j) :
    low3 (BitVec.ofNat 8 (8 * j)) (b.setWidth 3) = b := by
  subst h
  revert b
  decide

/-- A byte of a row of sixteen is the row's first with its 4-bit field. -/
theorem low4_field {b : Byte} {j : Nat} (h : b.toNat / 16 = j) :
    low4 (BitVec.ofNat 8 (16 * j)) (b.setWidth 4) = b := by
  subst h
  revert b
  decide

/-! ## Operand bytes -/

theorem take8_eq_ok {t t' : List Byte} {v : Byte} (h : take8 t = .ok (v, t')) :
    t = [v] ++ t' := by
  match t, h with
  | b :: t, h => cases h; rfl

theorem take16_eq_ok {t t' : List Byte} {v : BitVec 16} (h : take16 t = .ok (v, t')) :
    t = bytes16 v ++ t' := by
  match t, h with
  | b0 :: b1 :: t, h =>
    cases h
    rw [bytes16_append]
    rfl

theorem take24_eq_ok {t t' : List Byte} {v : BitVec 24} (h : take24 t = .ok (v, t')) :
    t = bytes24 v ++ t' := by
  match t, h with
  | b0 :: b1 :: b2 :: t, h =>
    cases h
    rw [bytes24_append]
    rfl

theorem take32_eq_ok {t t' : List Byte} {v : BitVec 32} (h : take32 t = .ok (v, t')) :
    t = bytes32 v ++ t' := by
  match t, h with
  | b0 :: b1 :: b2 :: b3 :: t, h =>
    cases h
    rw [bytes32_append]
    rfl

theorem takeImm_eq_ok {sz : Size} {t t' : List Byte} {v : BitVec sz.bits}
    (h : takeImm sz t = .ok (v, t')) : t = immBytes sz v ++ t' := by
  cases sz with
  | B => exact take8_eq_ok h
  | W => exact take16_eq_ok h
  | L => exact take32_eq_ok h

theorem takeMemImm_eq_ok {sz : Size} {t t' : List Byte} {v : BitVec sz.bits}
    (h : takeMemImm sz t = .ok (v, t')) : t = immBytes sz v ++ t' := by
  unfold takeMemImm at h
  split at h
  · cases h
  · exact takeImm_eq_ok h

theorem setWidth_three {b : Byte} (h : ¬ b.toNat > 7) : (b.setWidth 3).setWidth 8 = b := by
  revert b
  decide

theorem take3_eq_ok {t t' : List Byte} {n : BitVec 3} (h : take3 t = .ok (n, t')) :
    t = [n.setWidth 8] ++ t' := by
  match t, h with
  | b :: t, h =>
    replace h : (if b.toNat > 7 then _ else Except.ok (b.setWidth 3, t)) = .ok (n, t') := h
    split at h
    · cases h
    · rename_i hb
      cases h
      rw [setWidth_three hb]
      rfl

/-! ## What is spelled and what is read -/

/-- The bytes are the encoding of `i`, but for the bits that the core ignores. -/
def Spells (i : Instr) (used : List Byte) : Prop :=
  used.length = (encode i).length ∧
    ∀ k, k < used.length → used[k]? = (encode i)[k]? ∨
      (k + 1 = used.length ∧ EndsInFourBits i ∧
        used[k]?.map (·.setWidth 4) = (encode i)[k]?.map (·.setWidth 4)) ∨
      (k ∈ [1, 3, 5] ∧ ∃ a v, i = .ldx a v)

theorem spells_encode {i : Instr} {used : List Byte} (h : encode i = used) : Spells i used := by
  subst h
  exact ⟨rfl, fun _ _ => .inl rfl⟩

/-- The upper four bits of a last byte that is a number `#4` are ignored (R77). -/
theorem spells_four {i : Instr} {p : List Byte} {b : Byte} (hi : EndsInFourBits i)
    (h : encode i = p ++ [(b.setWidth 4).setWidth 8]) : Spells i (p ++ [b]) := by
  refine ⟨by simp [h], fun k hk => ?_⟩
  rw [h]
  rcases Nat.lt_or_ge k p.length with hp | hp
  · exact .inl (by rw [List.getElem?_append_left hp, List.getElem?_append_left hp])
  · obtain rfl : k = p.length := by
      simp only [List.length_append, List.length_singleton] at hk
      omega
    exact .inr (.inl ⟨by simp, hi, by simp⟩)

/-- Bytes 2, 4 and 6 of LDX are ignored (47_control.md R199). -/
theorem spells_ldx (a v x y z : Byte) : Spells (.ldx a v) [0xF7, x, a, y, v, z] := by
  refine ⟨rfl, fun k hk => ?_⟩
  have hk : k < 6 := hk
  interval_cases k
  · exact .inl rfl
  · exact .inr (.inr ⟨by decide, a, v, rfl⟩)
  · exact .inl rfl
  · exact .inr (.inr ⟨by decide, a, v, rfl⟩)
  · exact .inl rfl
  · exact .inr (.inr ⟨by decide, a, v, rfl⟩)

/-- What `x` answers after the bytes `head` were read, with `t` left: it consumes a head of `t`,
and all that was read spells the instruction. -/
def Reads (x : Except Reject (Instr × List Byte)) (head t : List Byte) : Prop :=
  ∀ i rest, x = .ok (i, rest) → ∃ used, t = used ++ rest ∧ Spells i (head ++ used)

namespace Reads

variable {head t : List Byte} {x : Except Reject (Instr × List Byte)}

theorem error {e : Reject} : Reads (.error e) head t := fun _ _ h => by cases h

theorem spelled {i : Instr} (h : Spells i head) : Reads (.ok (i, t)) head t := by
  rintro _ _ ⟨⟩
  exact ⟨[], rfl, by simpa using h⟩

theorem ok {i : Instr} (h : encode i = head) : Reads (.ok (i, t)) head t :=
  spelled (spells_encode h)

/-- A read of operand bytes goes on with the rest. -/
theorem bind {α : Type} {r : Except Reject (α × List Byte)} {bytes : α → List Byte}
    {f : α × List Byte → Except Reject (Instr × List Byte)}
    (hr : ∀ v t', r = .ok (v, t') → t = bytes v ++ t')
    (hf : ∀ v t', Reads (f (v, t')) (head ++ bytes v) t') : Reads (r >>= f) head t := by
  intro i rest h
  cases hx : r with
  | error e =>
    rw [hx] at h
    cases h
  | ok p =>
    obtain ⟨v, t'⟩ := p
    rw [hx] at h
    obtain ⟨used, rfl, hs⟩ := hf v t' i rest h
    exact ⟨bytes v ++ used, by rw [hr v _ hx, List.append_assoc],
      by rwa [List.append_assoc] at hs⟩

theorem byte {f : Byte × List Byte → Except Reject (Instr × List Byte)}
    (hf : ∀ v t', Reads (f (v, t')) (head ++ [v]) t') : Reads (take8 t >>= f) head t :=
  bind (bytes := fun v => [v]) (fun _ _ => take8_eq_ok) hf

theorem word {f : BitVec 16 × List Byte → Except Reject (Instr × List Byte)}
    (hf : ∀ v t', Reads (f (v, t')) (head ++ bytes16 v) t') : Reads (take16 t >>= f) head t :=
  bind (fun _ _ => take16_eq_ok) hf

theorem address {f : BitVec 24 × List Byte → Except Reject (Instr × List Byte)}
    (hf : ∀ v t', Reads (f (v, t')) (head ++ bytes24 v) t') : Reads (take24 t >>= f) head t :=
  bind (fun _ _ => take24_eq_ok) hf

theorem long {f : BitVec 32 × List Byte → Except Reject (Instr × List Byte)}
    (hf : ∀ v t', Reads (f (v, t')) (head ++ bytes32 v) t') : Reads (take32 t >>= f) head t :=
  bind (fun _ _ => take32_eq_ok) hf

theorem imm {sz : Size} {f : BitVec sz.bits × List Byte → Except Reject (Instr × List Byte)}
    (hf : ∀ v t', Reads (f (v, t')) (head ++ immBytes sz v) t') :
    Reads (takeImm sz t >>= f) head t :=
  bind (fun _ _ => takeImm_eq_ok) hf

theorem memImm {sz : Size} {f : BitVec sz.bits × List Byte → Except Reject (Instr × List Byte)}
    (hf : ∀ v t', Reads (f (v, t')) (head ++ immBytes sz v) t') :
    Reads (takeMemImm sz t >>= f) head t :=
  bind (fun _ _ => takeMemImm_eq_ok) hf

theorem three {f : BitVec 3 × List Byte → Except Reject (Instr × List Byte)}
    (hf : ∀ n t', Reads (f (n, t')) (head ++ [n.setWidth 8]) t') : Reads (take3 t >>= f) head t :=
  bind (bytes := fun n => [n.setWidth 8]) (fun _ _ => take3_eq_ok) hf

/-- A number `#4` is the last byte of its instruction. -/
theorem four {f : BitVec 4 × List Byte → Except Reject (Instr × List Byte)} {i : BitVec 4 → Instr}
    (hf : ∀ n t', f (n, t') = .ok (i n, t')) (h : ∀ n, encode (i n) = head ++ [n.setWidth 8])
    (hi : ∀ n, EndsInFourBits (i n)) : Reads (take4 t >>= f) head t :=
  match t with
  | [] => error
  | b :: t => fun _ _ hx => by
    replace hx : f (b.setWidth 4, t) = _ := hx
    rw [hf] at hx
    cases hx
    exact ⟨[b], rfl, spells_four (hi _) (h _)⟩

theorem only {want sz : Size} (h : sz = want → Reads x head t) :
    Reads (onlyAt want sz x) head t := by
  unfold onlyAt
  split
  · exact h ‹_›
  · exact error

variable {p : List Byte} {op : Byte} {k : Nat}

/-- The operation byte is known. -/
theorem known (hop : op.toNat = k) (h : Reads x (p ++ [BitVec.ofNat 8 k]) t) :
    Reads x (p ++ [op]) t := by
  rwa [eq_ofNat_of_toNat hop]

/-- A row of eight operations with a 3-bit field. -/
theorem row {j : Nat} (hop : op.toNat = k) (hk : k / 8 = j)
    (h : Reads x (p ++ [low3 (BitVec.ofNat 8 (8 * j)) (op.setWidth 3)]) t) :
    Reads x (p ++ [op]) t := by
  subst hop
  rwa [low3_field hk] at h

end Reads

/-! ## Conditions -/

theorem code_ofCode (c : BitVec 4) : (Cond.ofCode c).code = c := by
  revert c
  decide

/-- A row of conditions. -/
theorem Reads.condition {x : Except Reject (Instr × List Byte)} {p t : List Byte} {op : Byte}
    {j : Nat} (hj : op.toNat / 16 = j)
    (h : Reads x (p ++ [low4 (BitVec.ofNat 8 (16 * j)) (Cond.ofCode (op.setWidth 4)).code]) t) :
    Reads x (p ++ [op]) t := by
  rwa [code_ofCode, low4_field hj] at h

/-! ## The opcode maps -/

/-- The instructions whose last byte is a number `#4`. -/
theorem endsInFourBits (sz : Size) (n : BitVec 4) (r : RegOp) :
    ∀ i ∈ [Instr.andcfNr sz n r, .orcfNr sz n r, .xorcfNr sz n r, .ldcfNr sz n r,
      .stcfNr sz n r, .resNr sz n r, .setNr sz n r, .chgNr sz n r, .bitNr sz n r,
      .tsetNr sz n r, .rlcNr sz n r, .rrcNr sz n r, .rlNr sz n r, .rrNr sz n r,
      .slaNr sz n r, .sraNr sz n r, .sllNr sz n r, .srlNr sz n r], EndsInFourBits i := by
  have carry (op : CarryOp) : EndsInFourBits (op.regImm sz n r) := .inl ⟨op, sz, n, r, rfl⟩
  have shift (op : ShiftOp) : EndsInFourBits (op.regImm sz n r) :=
    .inr (.inl ⟨op, sz, n, r, rfl⟩)
  simp only [List.forall_mem_cons, List.not_mem_nil, false_imp_iff]
  exact ⟨carry .andcf, carry .orcf, carry .xorcf, carry .ldcf,
    .inr (.inr ⟨sz, n, r, by simp⟩), .inr (.inr ⟨sz, n, r, by simp⟩),
    .inr (.inr ⟨sz, n, r, by simp⟩), .inr (.inr ⟨sz, n, r, by simp⟩),
    .inr (.inr ⟨sz, n, r, by simp⟩), .inr (.inr ⟨sz, n, r, by simp⟩),
    shift .rlc, shift .rrc, shift .rl, shift .rr, shift .sla, shift .sra, shift .sll, shift .srl,
    fun _ => trivial⟩

/-- The second bytes after a REG prefix (R80). -/
theorem parseReg_reads (sz : Size) (r : RegOp) (op : Byte) (t : List Byte) :
    Reads (parseReg sz r op t) (regPrefix sz r ++ [op]) t := by
  unfold parseReg
  generalize hop : op.toNat = k
  extract_lets R
  split <;> rename_i hk
  all_goals try exact .error
  all_goals try exact .known hop (.ok rfl)
  all_goals try exact .known hop (.imm fun _ _ => .ok rfl)
  all_goals try exact .known hop (.byte fun _ _ => .ok rfl)
  all_goals try exact .known hop (.four (fun _ _ => rfl) (fun _ => rfl)
    fun n => endsInFourBits sz n r _ (by simp))
  all_goals try exact .known hop (.only fun h => .ok (by subst h; rfl))
  all_goals try exact .known hop (.only fun h => .word fun _ _ => .ok (by subst h; rfl))
  split <;> rename_i hk
  all_goals try exact .error
  all_goals try exact .row hop hk (.ok rfl)
  all_goals exact .condition (j := 7) (by omega) (.ok rfl)

theorem parseBlock_reads {sz : Size} {m : MemOp} {p t : List Byte} {i : BlockPair → Instr}
    (h : ∀ q, encode (i q) = srcPrefix sz (.ind q.code) ++ p) :
    Reads (parseBlock m t i) (srcPrefix sz m ++ p) t := by
  unfold parseBlock
  split
  · subst m
    exact .ok (h .deHl)
  split
  · subst m
    exact .ok (h .ixIy)
  · exact .error

theorem parseBlockCp_reads {sz : Size} {m : MemOp} {p t : List Byte} {i : BitVec 3 → Instr}
    (h : ∀ R, encode (i R) = srcPrefix sz (.ind R) ++ p) :
    Reads (parseBlockCp m t i) (srcPrefix sz m ++ p) t := by
  unfold parseBlockCp
  split
  · exact .ok (h _)
  · exact .error

/-- The second bytes after a SRC prefix (R81). -/
theorem parseSrc_reads (sz : Size) (m : MemOp) (op : Byte) (t : List Byte) :
    Reads (parseSrc sz m op t) (srcPrefix sz m ++ [op]) t := by
  unfold parseSrc
  generalize hop : op.toNat = k
  dsimp only
  split
  all_goals try exact .known hop (.ok rfl)
  all_goals try exact .known hop (.only fun h => .ok (by subst h; rfl))
  all_goals try exact .known hop (parseBlock_reads fun _ => rfl)
  all_goals try exact .known hop (parseBlockCp_reads fun _ => rfl)
  all_goals try exact .known hop (.word fun _ _ => .ok rfl)
  all_goals try exact .known hop (.memImm fun _ _ => .ok rfl)
  split <;> rename_i hk
  all_goals try exact .error
  all_goals exact .row hop hk (.ok rfl)

/-- The second bytes after a DST prefix (R82). -/
theorem parseDst_reads {b0 : Byte} {m : MemOp} (op : Byte) (t : List Byte)
    (h0 : b0 = 0xB0 ||| modeBits m) (hret : b0 = 0xB0 → m = .ind 0) :
    Reads (parseDst b0 m op t) (dstPrefix m ++ [op]) t := by
  unfold parseDst
  generalize hop : op.toNat = k
  dsimp only
  split
  all_goals try exact .known hop (.ok rfl)
  all_goals try exact .known hop (.byte fun _ _ => .ok rfl)
  all_goals try exact .known hop (.word fun _ _ => .ok rfl)
  split <;> rename_i hk
  all_goals try exact .error
  all_goals try exact .row hop hk (.ok rfl)
  all_goals try exact .condition (j := 13) (by omega) (.ok rfl)
  all_goals try exact .condition (j := 14) (by omega) (.ok rfl)
  all_goals
    split
    next hb =>
      obtain rfl := hret hb
      exact .condition (j := 15) (by omega) (.ok rfl)
    next => exact .error

/-- LDAR after F3H:13H. -/
theorem parseLdar_reads (t : List Byte) : Reads (parseLdar t) [0xF3, 0x13] t := by
  refine .word fun d t => .byte fun op t => ?_
  dsimp only
  split <;> rename_i hk
  all_goals try exact .error
  all_goals exact .row rfl hk (.ok rfl)

theorem parseLdx_reads (t : List Byte) : Reads (parseLdx t) [0xF7] t :=
  .byte fun _ _ => .byte fun _ _ => .byte fun _ _ => .byte fun _ _ => .byte fun _ _ =>
    .spelled (spells_ldx _ _ _ _ _)

/-- A number of EI or LDF. -/
theorem parseEi_reads {t : List Byte} (n : BitVec 3) :
    Reads (.ok (if n = 7 then .di else .ei n, t)) [0x06, n.setWidth 8] t := by
  split
  · subst n
    exact .ok rfl
  · exact .ok rfl

/-- First bytes 00H to 7FH (R79). -/
theorem parseOp1_reads (b0 : Byte) (t : List Byte) : Reads (parseOp1 b0 t) [b0] t := by
  rw [← List.nil_append [b0]]
  unfold parseOp1
  generalize hop : b0.toNat = k
  dsimp only
  split <;> rename_i hk
  all_goals try exact .error
  all_goals try exact .known hop (.ok rfl)
  all_goals try exact .known hop (.byte fun _ _ => .ok rfl)
  all_goals try exact .known hop (.word fun _ _ => .ok rfl)
  all_goals try exact .known hop (.address fun _ _ => .ok rfl)
  all_goals try exact .known hop (.three fun _ _ => .ok rfl)
  all_goals try exact .known hop (.three fun n _ => parseEi_reads n)
  all_goals try exact .known hop (.byte fun _ _ => .byte fun _ _ => .ok rfl)
  all_goals try exact .known hop (.byte fun _ _ => .word fun _ _ => .ok rfl)
  split <;> rename_i hk
  all_goals try exact .error
  all_goals try exact .row hop hk (.ok rfl)
  all_goals try exact .row hop hk (.byte fun _ _ => .ok rfl)
  all_goals try exact .row hop hk (.word fun _ _ => .ok rfl)
  all_goals try exact .row hop hk (.long fun _ _ => .ok rfl)
  all_goals try exact .condition (j := 6) (by omega) (.byte fun _ _ => .ok rfl)
  all_goals exact .condition (j := 7) (by omega) (.word fun _ _ => .ok rfl)

/-! ## Prefixes and their modes -/

theorem parseStep_eq_ok {x : Byte} {st : Step} (h : parseStep x = .ok st) :
    x.extractLsb' 2 6 ++ st.code = x := by
  have spelled : ∀ x : Byte, ∀ st ∈ [Step.one, .two, .four], (x.setWidth 2).toNat = st.code.toNat →
      x.extractLsb' 2 6 ++ st.code = x := by decide
  unfold parseStep at h
  split at h <;> rename_i hx <;> cases h
  · exact spelled x .one (by simp) hx
  · exact spelled x .two (by simp) hx
  · exact spelled x .four (by simp) hx

/-- A sub-byte with a register code and a tag (R72). -/
theorem code_append_tag {x : Byte} {tag : Nat} (h : (x.setWidth 2).toNat = tag) :
    x.extractLsb' 2 6 ++ BitVec.ofNat 2 tag = x := by
  subst h
  revert x
  decide

/-- What a read in steps has read. -/
theorem bind_eq_ok {α β : Type} {x : Except Reject α} {f : α → Except Reject β} {z : β} :
    (x >>= f) = .ok z ↔ ∃ a, x = .ok a ∧ f a = .ok z := by
  cases x with
  | error e => exact ⟨nofun, fun ⟨_, ha, _⟩ => nomatch ha⟩
  | ok a => exact ⟨fun h => ⟨a, rfl, h⟩, fun ⟨b, hb, h⟩ => by cases hb; exact h⟩

/-- What a read of an operand leaves to the rest. -/
theorem read_eq_ok {α β : Type} {r : Except Reject (α × List Byte)} {bytes : α → List Byte}
    {f : α × List Byte → Except Reject β} {t : List Byte} {z : β}
    (hr : ∀ v t', r = .ok (v, t') → t = bytes v ++ t') (h : (r >>= f) = .ok z) :
    ∃ v t', t = bytes v ++ t' ∧ f (v, t') = .ok z := by
  obtain ⟨⟨v, t'⟩, hv, hf⟩ := bind_eq_ok.mp h
  exact ⟨v, t', hr v t' hv, hf⟩

theorem read8_eq_ok {β : Type} {f : Byte × List Byte → Except Reject β} {t : List Byte} {z : β}
    (h : (take8 t >>= f) = .ok z) : ∃ v t', t = [v] ++ t' ∧ f (v, t') = .ok z :=
  read_eq_ok (bytes := fun v => [v]) (fun _ _ => take8_eq_ok) h

/-- A pair of register codes behind a sub-byte (R73). -/
theorem readIndex_eq_ok {i : Byte → Byte → MemOp} {t t' : List Byte} {m : MemOp}
    (h : (take8 t >>= fun p => take8 p.2 >>= fun q => .ok (i p.1 q.1, q.2)) = .ok (m, t')) :
    ∃ base idx, t = [base, idx] ++ t' ∧ m = i base idx := by
  obtain ⟨base, u, rfl, hu⟩ := read8_eq_ok h
  obtain ⟨idx, v, rfl, hv⟩ := read8_eq_ok hu
  cases hv
  exact ⟨base, idx, rfl, rfl⟩

/-- The modes behind a sub-byte: their mode bytes are what was read (R72, R73). -/
theorem parseSubMode_eq_ok {t t' : List Byte} {m : MemOp} (h : parseSubMode t = .ok (m, t')) :
    t = modeBytes m ++ t' ∧ modeBits m = 0x43 := by
  obtain ⟨x, u, rfl, hu⟩ := read8_eq_ok h
  dsimp only at hu
  split at hu
  case h_1 htag =>
    cases hu
    exact ⟨by simp [modeBytes, code_append_tag htag], rfl⟩
  case h_2 htag =>
    obtain ⟨d, v, rfl, hv⟩ := read_eq_ok (fun _ _ => take16_eq_ok) hu
    cases hv
    exact ⟨by simp [modeBytes, code_append_tag htag], rfl⟩
  case h_3 htag =>
    split at hu
    · subst x
      obtain ⟨base, idx, rfl, rfl⟩ := readIndex_eq_ok hu
      exact ⟨rfl, rfl⟩
    split at hu
    · subst x
      obtain ⟨base, idx, rfl, rfl⟩ := readIndex_eq_ok hu
      exact ⟨rfl, rfl⟩
    · cases hu
  case h_4 => cases hu

/-- The mode bits of a prefix byte with bit 6 set. -/
theorem and_of_bit6 {b0 : Byte} {k : Nat} (h6 : b0.getLsbD 6 = true)
    (h : (b0.setWidth 4).toNat = k) : b0 &&& 0x4F = 0x40 ||| BitVec.ofNat 8 k := by
  subst h
  revert b0
  decide

/-- The mode bits of a prefix byte with bit 6 clear (R70). -/
theorem and_of_not_bit6 {b0 : Byte} (h6 : b0.getLsbD 6 = false) :
    b0 &&& 0x4F = low3 (if b0.getLsbD 3 then 0x08 else 0x00) (b0.setWidth 3) := by
  revert b0
  decide

/-- A stepping mode: its sub-byte (R74, R75). -/
theorem stepMode_eq_ok {t t' : List Byte} {m : MemOp} {i : BitVec 6 → Step → MemOp}
    (hi : ∀ r32 st, modeBytes (i r32 st) = [r32 ++ st.code])
    (h : (take8 t >>= fun p => parseStep p.1 >>= fun st => .ok (i (p.1.extractLsb' 2 6) st, p.2)) =
      .ok (m, t')) : t = modeBytes m ++ t' ∧ ∃ r32 st, m = i r32 st := by
  obtain ⟨x, u, rfl, hu⟩ := read8_eq_ok h
  obtain ⟨st, hst, hv⟩ := bind_eq_ok.mp hu
  cases hv
  exact ⟨by rw [hi, parseStep_eq_ok hst], _, _, rfl⟩

/-- A mode that was read: its mode bytes are what was read, and its bits are those of the
prefix (R68 to R75). -/
theorem parseMode_eq_ok {b0 : Byte} {t t' : List Byte} {m : MemOp}
    (h : parseMode b0 t = .ok (m, t')) : t = modeBytes m ++ t' ∧ b0 &&& 0x4F = modeBits m := by
  unfold parseMode at h
  split at h
  next h6 =>
    split at h
    case h_1 hk =>
      obtain ⟨a, u, rfl, hu⟩ := read8_eq_ok h
      cases hu
      exact ⟨rfl, and_of_bit6 h6 hk⟩
    case h_2 hk =>
      obtain ⟨a, u, rfl, hu⟩ := read_eq_ok (fun _ _ => take16_eq_ok) h
      cases hu
      exact ⟨rfl, and_of_bit6 h6 hk⟩
    case h_3 hk =>
      obtain ⟨a, u, rfl, hu⟩ := read_eq_ok (fun _ _ => take24_eq_ok) h
      cases hu
      exact ⟨rfl, and_of_bit6 h6 hk⟩
    case h_4 hk =>
      obtain ⟨ht, hm⟩ := parseSubMode_eq_ok h
      exact ⟨ht, by rw [hm]; exact and_of_bit6 h6 hk⟩
    case h_5 hk =>
      obtain ⟨ht, r32, st, rfl⟩ := stepMode_eq_ok (fun _ _ => rfl) h
      exact ⟨ht, and_of_bit6 h6 hk⟩
    case h_6 hk =>
      obtain ⟨ht, r32, st, rfl⟩ := stepMode_eq_ok (fun _ _ => rfl) h
      exact ⟨ht, and_of_bit6 h6 hk⟩
    case h_7 => cases h
  next h6 =>
    have hbits := and_of_not_bit6 (Bool.eq_false_iff.mpr h6)
    split at h
    next h3 =>
      obtain ⟨d, u, rfl, hu⟩ := read8_eq_ok h
      cases hu
      rw [if_pos h3] at hbits
      exact ⟨rfl, hbits⟩
    next h3 =>
      cases h
      rw [if_neg h3] at hbits
      exact ⟨rfl, hbits⟩

/-! ## The formats -/

/-- A SRC prefix is its size and its mode bits (R62, R68). -/
theorem srcByte_eq {b0 : Byte} (h : b0.toNat / 16 ∈ [8, 9, 10, 12, 13, 14]) :
    0x80 ||| sizeBits (parseSize b0) ||| (b0 &&& 0x4F) = b0 := by
  revert b0
  decide

/-- A DST prefix is its mode bits (R69). -/
theorem dstByte_eq {b0 : Byte} (h : b0.toNat / 16 ∈ [11, 15]) :
    0xB0 ||| (b0 &&& 0x4F) = b0 := by
  revert b0
  decide

/-- The prefix of an 8-bit register code (R65). -/
theorem extByte_eq {b0 : Byte} (h : b0.toNat / 16 ∈ [12, 13, 14]) (h7 : (b0.setWidth 4).toNat = 7) :
    0xC7 ||| sizeBits (parseSize b0) = b0 := by
  revert b0
  decide

/-- The prefix of a 3-bit register code (R64). -/
theorem shortByte_eq {b0 : Byte} (h : b0.toNat / 16 ∈ [12, 13, 14])
    (h8 : 8 ≤ (b0.setWidth 4).toNat) :
    low3 (0xC8 ||| sizeBits (parseSize b0)) (b0.setWidth 3) = b0 := by
  revert b0
  decide

theorem swiByte_eq {b0 : Byte} (h : b0.toNat / 16 = 15) (h8 : 8 ≤ (b0.setWidth 4).toNat) :
    low3 0xF8 (b0.setWidth 3) = b0 := by
  revert b0
  decide

/-- A read of a mode goes on with the rest. -/
theorem Reads.mode {b0 : Byte} {head t : List Byte}
    {f : MemOp × List Byte → Except Reject (Instr × List Byte)}
    (h : ∀ m t', b0 &&& 0x4F = modeBits m → Reads (f (m, t')) (head ++ modeBytes m) t') :
    Reads (parseMode b0 t >>= f) head t := by
  intro i rest hx
  obtain ⟨⟨m, t'⟩, hm, hf⟩ := bind_eq_ok.mp hx
  obtain ⟨rfl, hbits⟩ := parseMode_eq_ok hm
  obtain ⟨used, rfl, hs⟩ := h m t' hbits i rest hf
  exact ⟨modeBytes m ++ used, by rw [List.append_assoc], by rwa [List.append_assoc] at hs⟩

theorem parseSrcFormat_reads {b0 : Byte} (t : List Byte)
    (h : b0.toNat / 16 ∈ [8, 9, 10, 12, 13, 14]) : Reads (parseSrcFormat b0 t) [b0] t := by
  refine .mode fun m t hm => .byte fun op t => ?_
  have hprefix : [b0] ++ modeBytes m = srcPrefix (parseSize b0) m := by
    rw [srcPrefix, ← hm, srcByte_eq h]
    rfl
  rw [hprefix]
  exact parseSrc_reads _ m op t

/-- Only the mode `(XWA)` has the mode bits 0. -/
theorem eq_ind_zero_of_modeBits {m : MemOp} (h : modeBits m = 0) : m = .ind 0 := by
  cases m with
  | ind R =>
    rw [modeBits] at h
    revert R
    decide
  | disp8 R d =>
    have hne : ∀ R, low3 0x08 R ≠ 0 := by decide
    exact absurd h (hne R)
  | _ => cases h

theorem parseDstFormat_reads {b0 : Byte} (t : List Byte) (h : b0.toNat / 16 ∈ [11, 15]) :
    Reads (parseDstFormat b0 t) [b0] t := by
  unfold parseDstFormat
  split
  next hldar =>
    obtain ⟨rfl, ht⟩ := hldar
    obtain ⟨u, rfl⟩ := List.head?_eq_some_iff.mp ht
    intro i rest hx
    obtain ⟨used, hu, hs⟩ := parseLdar_reads u i rest hx
    exact ⟨0x13 :: used, congrArg _ hu, hs⟩
  next =>
    refine .mode fun m t hm => .byte fun op t => ?_
    have hb0 : b0 = 0xB0 ||| modeBits m := by rw [← hm, dstByte_eq h]
    have hprefix : [b0] ++ modeBytes m = dstPrefix m := by
      rw [dstPrefix, ← hb0]
      rfl
    rw [hprefix]
    refine parseDst_reads op t hb0 fun h0 => eq_ind_zero_of_modeBits ?_
    rw [← hm, h0]
    rfl

theorem parseRegShort_reads {b0 : Byte} (t : List Byte) (h : b0.toNat / 16 ∈ [12, 13, 14])
    (h8 : 8 ≤ (b0.setWidth 4).toNat) : Reads (parseRegShort b0 t) [b0] t := by
  refine .byte fun op t => ?_
  have hprefix : [b0] = regPrefix (parseSize b0) (.short (b0.setWidth 3)) := by
    rw [regPrefix, shortByte_eq h h8]
  rw [hprefix]
  exact parseReg_reads _ _ op t

theorem parseRegExt_reads {b0 : Byte} (t : List Byte) (h : b0.toNat / 16 ∈ [12, 13, 14])
    (h7 : (b0.setWidth 4).toNat = 7) : Reads (parseRegExt b0 t) [b0] t := by
  refine .byte fun code t => .byte fun op t => ?_
  have hprefix : [b0] ++ [code] = regPrefix (parseSize b0) (.ext code) := by
    rw [regPrefix, extByte_eq h h7]
    rfl
  rw [hprefix]
  exact parseReg_reads _ _ op t

/-- Whatever the parser reads spells the instruction it answers. -/
theorem parse_reads (bs : List Byte) : Reads (parse bs) [] bs := by
  match bs with
  | [] => exact .error
  | b0 :: t =>
    suffices h : Reads (parse (b0 :: t)) [b0] t by
      intro i rest hx
      obtain ⟨used, rfl, hs⟩ := h i rest hx
      exact ⟨b0 :: used, rfl, hs⟩
    unfold parse
    dsimp only
    split
    case h_1 hk => exact parseSrcFormat_reads t (by simp [hk])
    case h_2 hk => exact parseSrcFormat_reads t (by simp [hk])
    case h_3 hk => exact parseSrcFormat_reads t (by simp [hk])
    case h_4 hk => exact parseDstFormat_reads t (by simp [hk])
    case h_8 hk =>
      split
      · exact parseDstFormat_reads t (by simp [hk])
      split
      · exact .error
      split
      next h7 =>
        have hb : b0 = 0xF7 := by
          revert b0
          decide
        subst hb
        exact parseLdx_reads t
      next h7 => exact .ok (by rw [encode, swiByte_eq hk (by omega)])
    case h_9 => exact parseOp1_reads b0 t
    all_goals
      rename_i hk
      split
      · exact parseSrcFormat_reads t (by simp [hk])
      split
      · exact .error
      split
      next h7 => exact parseRegExt_reads t (by simp [hk]) h7
      next => exact parseRegShort_reads t (by simp [hk]) (by omega)

/-! ## What the decoder answers -/

open Laws in
/-- The encoding of an instruction of the set has 1 to 7 bytes: `Laws.Length` has the lemma of
each constructor. -/
theorem encode_length : ∀ i : Instr, Length.Statement i
  | .nop => Length.nop | .pushSR => Length.pushSR | .popSR => Length.popSR | .min => Length.min
  | .halt => Length.halt | .di => Length.di | .ei _ => Length.ei _ | .reti => Length.reti
  | .ldA8I8 _ _ => Length.ldA8I8 _ _ | .pushI8 _ => Length.pushI8 _
  | .ldwA8I16 _ _ => Length.ldwA8I16 _ _ | .pushwI16 _ => Length.pushwI16 _ | .incf => Length.incf
  | .decf => Length.decf | .ret => Length.ret | .retd _ => Length.retd _ | .rcf => Length.rcf
  | .scf => Length.scf | .ccf => Length.ccf | .zcf => Length.zcf | .pushA => Length.pushA
  | .popA => Length.popA | .exFF => Length.exFF | .ldf _ => Length.ldf _ | .pushF => Length.pushF
  | .popF => Length.popF | .jp16 _ => Length.jp16 _ | .jp24 _ => Length.jp24 _
  | .call16 _ => Length.call16 _ | .call24 _ => Length.call24 _ | .calr _ => Length.calr _
  | .ldRI8 _ _ => Length.ldRI8 _ _ | .pushRW _ => Length.pushRW _ | .ldRI16 _ _ => Length.ldRI16 _ _
  | .pushRL _ => Length.pushRL _ | .ldRI32 _ _ => Length.ldRI32 _ _ | .popRW _ => Length.popRW _
  | .popRL _ => Length.popRL _ | .jr _ _ => Length.jr _ _ | .jrl _ _ => Length.jrl _ _
  | .ldx _ _ => Length.ldx _ _ | .swi _ => Length.swi _ | .ldrI _ _ _ => Length.ldrI _ _ _
  | .pushr _ _ => Length.pushr _ _ | .popr _ _ => Length.popr _ _ | .cplr _ _ => Length.cplr _ _
  | .negr _ _ => Length.negr _ _ | .mulrrI _ _ _ => Length.mulrrI _ _ _
  | .mulsrrI _ _ _ => Length.mulsrrI _ _ _ | .divrrI _ _ _ => Length.divrrI _ _ _
  | .divsrrI _ _ _ => Length.divsrrI _ _ _ | .link _ _ => Length.link _ _ | .unlk _ => Length.unlk _
  | .bs1f _ => Length.bs1f _ | .bs1b _ => Length.bs1b _ | .daa _ => Length.daa _
  | .extz _ _ => Length.extz _ _ | .exts _ _ => Length.exts _ _ | .paa _ _ => Length.paa _ _
  | .mirr _ => Length.mirr _ | .mula _ => Length.mula _ | .djnz _ _ _ => Length.djnz _ _ _
  | .andcfNr _ _ _ => Length.andcfNr _ _ _ | .orcfNr _ _ _ => Length.orcfNr _ _ _
  | .xorcfNr _ _ _ => Length.xorcfNr _ _ _ | .ldcfNr _ _ _ => Length.ldcfNr _ _ _
  | .stcfNr _ _ _ => Length.stcfNr _ _ _ | .andcfAr _ _ => Length.andcfAr _ _
  | .orcfAr _ _ => Length.orcfAr _ _ | .xorcfAr _ _ => Length.xorcfAr _ _
  | .ldcfAr _ _ => Length.ldcfAr _ _ | .stcfAr _ _ => Length.stcfAr _ _
  | .ldcCr _ _ _ => Length.ldcCr _ _ _ | .ldcR _ _ _ => Length.ldcR _ _ _
  | .resNr _ _ _ => Length.resNr _ _ _ | .setNr _ _ _ => Length.setNr _ _ _
  | .chgNr _ _ _ => Length.chgNr _ _ _ | .bitNr _ _ _ => Length.bitNr _ _ _
  | .tsetNr _ _ _ => Length.tsetNr _ _ _ | .minc1 _ _ => Length.minc1 _ _
  | .minc2 _ _ => Length.minc2 _ _ | .minc4 _ _ => Length.minc4 _ _ | .mdec1 _ _ => Length.mdec1 _ _
  | .mdec2 _ _ => Length.mdec2 _ _ | .mdec4 _ _ => Length.mdec4 _ _
  | .mulRr _ _ _ => Length.mulRr _ _ _ | .mulsRr _ _ _ => Length.mulsRr _ _ _
  | .divRr _ _ _ => Length.divRr _ _ _ | .divsRr _ _ _ => Length.divsRr _ _ _
  | .incNr _ _ _ => Length.incNr _ _ _ | .decNr _ _ _ => Length.decNr _ _ _
  | .scc _ _ _ => Length.scc _ _ _ | .addRr _ _ _ => Length.addRr _ _ _
  | .ldRr _ _ _ => Length.ldRr _ _ _ | .adcRr _ _ _ => Length.adcRr _ _ _
  | .ldrR _ _ _ => Length.ldrR _ _ _ | .subRr _ _ _ => Length.subRr _ _ _
  | .ldrN _ _ _ => Length.ldrN _ _ _ | .sbcRr _ _ _ => Length.sbcRr _ _ _
  | .exRr _ _ _ => Length.exRr _ _ _ | .andRr _ _ _ => Length.andRr _ _ _
  | .addrI _ _ _ => Length.addrI _ _ _ | .adcrI _ _ _ => Length.adcrI _ _ _
  | .subrI _ _ _ => Length.subrI _ _ _ | .sbcrI _ _ _ => Length.sbcrI _ _ _
  | .andrI _ _ _ => Length.andrI _ _ _ | .xorrI _ _ _ => Length.xorrI _ _ _
  | .orrI _ _ _ => Length.orrI _ _ _ | .cprI _ _ _ => Length.cprI _ _ _
  | .xorRr _ _ _ => Length.xorRr _ _ _ | .cprN _ _ _ => Length.cprN _ _ _
  | .orRr _ _ _ => Length.orRr _ _ _ | .rlcNr _ _ _ => Length.rlcNr _ _ _
  | .rrcNr _ _ _ => Length.rrcNr _ _ _ | .rlNr _ _ _ => Length.rlNr _ _ _
  | .rrNr _ _ _ => Length.rrNr _ _ _ | .slaNr _ _ _ => Length.slaNr _ _ _
  | .sraNr _ _ _ => Length.sraNr _ _ _ | .sllNr _ _ _ => Length.sllNr _ _ _
  | .srlNr _ _ _ => Length.srlNr _ _ _ | .cpRr _ _ _ => Length.cpRr _ _ _
  | .rlcAr _ _ => Length.rlcAr _ _ | .rrcAr _ _ => Length.rrcAr _ _ | .rlAr _ _ => Length.rlAr _ _
  | .rrAr _ _ => Length.rrAr _ _ | .slaAr _ _ => Length.slaAr _ _ | .sraAr _ _ => Length.sraAr _ _
  | .sllAr _ _ => Length.sllAr _ _ | .srlAr _ _ => Length.srlAr _ _
  | .ldar _ _ _ => Length.ldar _ _ _ | .ldmI8 _ _ => Length.ldmI8 _ _
  | .ldwmI16 _ _ => Length.ldwmI16 _ _ | .popm _ => Length.popm _ | .popwm _ => Length.popwm _
  | .ldmA16 _ _ => Length.ldmA16 _ _ | .ldwmA16 _ _ => Length.ldwmA16 _ _
  | .ldaW _ _ => Length.ldaW _ _ | .andcfAm _ => Length.andcfAm _ | .orcfAm _ => Length.orcfAm _
  | .xorcfAm _ => Length.xorcfAm _ | .ldcfAm _ => Length.ldcfAm _ | .stcfAm _ => Length.stcfAm _
  | .ldaL _ _ => Length.ldaL _ _ | .ldmRB _ _ => Length.ldmRB _ _ | .ldmRW _ _ => Length.ldmRW _ _
  | .ldmRL _ _ => Length.ldmRL _ _ | .andcfNm _ _ => Length.andcfNm _ _
  | .orcfNm _ _ => Length.orcfNm _ _ | .xorcfNm _ _ => Length.xorcfNm _ _
  | .ldcfNm _ _ => Length.ldcfNm _ _ | .stcfNm _ _ => Length.stcfNm _ _
  | .tsetNm _ _ => Length.tsetNm _ _ | .resNm _ _ => Length.resNm _ _
  | .setNm _ _ => Length.setNm _ _ | .chgNm _ _ => Length.chgNm _ _ | .bitNm _ _ => Length.bitNm _ _
  | .jpm _ _ => Length.jpm _ _ | .callm _ _ => Length.callm _ _ | .retcc _ => Length.retcc _
  | .pushm _ _ => Length.pushm _ _ | .rld _ => Length.rld _ | .rrd _ => Length.rrd _
  | .ldi _ _ => Length.ldi _ _ | .ldir _ _ => Length.ldir _ _ | .ldd _ _ => Length.ldd _ _
  | .lddr _ _ => Length.lddr _ _ | .cpi _ _ => Length.cpi _ _ | .cpir _ _ => Length.cpir _ _
  | .cpd _ _ => Length.cpd _ _ | .cpdr _ _ => Length.cpdr _ _ | .ldA16m _ _ _ => Length.ldA16m _ _ _
  | .ldRm _ _ _ => Length.ldRm _ _ _ | .exmR _ _ _ => Length.exmR _ _ _
  | .addmI _ _ _ => Length.addmI _ _ _ | .adcmI _ _ _ => Length.adcmI _ _ _
  | .submI _ _ _ => Length.submI _ _ _ | .sbcmI _ _ _ => Length.sbcmI _ _ _
  | .andmI _ _ _ => Length.andmI _ _ _ | .xormI _ _ _ => Length.xormI _ _ _
  | .ormI _ _ _ => Length.ormI _ _ _ | .cpmI _ _ _ => Length.cpmI _ _ _
  | .mulRm _ _ _ => Length.mulRm _ _ _ | .mulsRm _ _ _ => Length.mulsRm _ _ _
  | .divRm _ _ _ => Length.divRm _ _ _ | .divsRm _ _ _ => Length.divsRm _ _ _
  | .incNm _ _ _ => Length.incNm _ _ _ | .decNm _ _ _ => Length.decNm _ _ _
  | .rlcm _ _ => Length.rlcm _ _ | .rrcm _ _ => Length.rrcm _ _ | .rlm _ _ => Length.rlm _ _
  | .rrm _ _ => Length.rrm _ _ | .slam _ _ => Length.slam _ _ | .sram _ _ => Length.sram _ _
  | .sllm _ _ => Length.sllm _ _ | .srlm _ _ => Length.srlm _ _ | .addRm _ _ _ => Length.addRm _ _ _
  | .addmR _ _ _ => Length.addmR _ _ _ | .adcRm _ _ _ => Length.adcRm _ _ _
  | .adcmR _ _ _ => Length.adcmR _ _ _ | .subRm _ _ _ => Length.subRm _ _ _
  | .submR _ _ _ => Length.submR _ _ _ | .sbcRm _ _ _ => Length.sbcRm _ _ _
  | .sbcmR _ _ _ => Length.sbcmR _ _ _ | .andRm _ _ _ => Length.andRm _ _ _
  | .andmR _ _ _ => Length.andmR _ _ _ | .xorRm _ _ _ => Length.xorRm _ _ _
  | .xormR _ _ _ => Length.xormR _ _ _ | .orRm _ _ _ => Length.orRm _ _ _
  | .ormR _ _ _ => Length.ormR _ _ _ | .cpRm _ _ _ => Length.cpRm _ _ _
  | .cpmR _ _ _ => Length.cpmR _ _ _

theorem decode_eq_ok {bs : List Byte} {i : Instr} {n : Nat} (h : decode bs = .ok (i, n)) :
    ∃ rest, parse bs = .ok (i, rest) ∧ WellFormed i = true ∧ n = bs.length - rest.length := by
  unfold decode at h
  split at h
  next => cases h
  next j rest hp =>
    split at h
    next => cases h
    next hi =>
      cases h
      exact ⟨rest, hp, by rw [WellFormed, hi]; rfl, rfl⟩

/-- Settles O2: what the parser reads spells the instruction it answers (`parse_reads`). -/
theorem decodedInstructionIsWellFormed : Obligations.DecodedInstructionIsWellFormed := by
  intro bs i n h
  obtain ⟨rest, hp, hwf, rfl⟩ := decode_eq_ok h
  obtain ⟨used, rfl, hlen, hs⟩ := parse_reads bs i rest hp
  rw [List.nil_append] at hlen hs
  have hn : (used ++ rest).length - rest.length = used.length := by simp
  obtain ⟨hpos, hseven⟩ := encode_length i hwf
  rw [hn]
  refine ⟨hwf, hlen, by omega, by omega, by simp, fun k hk => ?_⟩
  rw [List.getElem?_append_left hk]
  exact hs k hk

end Sys2Proof
end

section
/-!
SUPPORT. The statements that hold by the definitions of one part: the words of the spec, the
condition table, SR, the flag computations, and which instructions write the controls.
-/

namespace Sys2Proof.Machine

/-! ## What writes the controls of the machine -/

/-- An element of a block load leaves an ordinary state, and goes on from it or not. -/
theorem blockLoadRepeat_eq (i : Repeating) (sz : Size) (p : BlockPair) (d : Word32) (s : State) :
    ∃ u, s.Ordinary u ∧
      (blockLoadRepeat i sz p d s = u ∨ blockLoadRepeat i sz p d s = u.again i) := by
  unfold blockLoadRepeat
  split
  · exact ⟨_, blockLoad_ordinary sz p d s, .inl rfl⟩
  · exact ⟨_, .blockElement .refl, .inr rfl⟩

/-- An element of a block compare leaves an ordinary state, and goes on from it or not. -/
theorem blockCompareRepeat_eq (i : Repeating) (sz : Size) (R : BitVec 3) (d : Word32)
    (s : State) : ∃ u, s.Ordinary u ∧
      (blockCompareRepeat i sz R d s = u ∨ blockCompareRepeat i sz R d s = u.again i) := by
  unfold blockCompareRepeat
  split
  · exact ⟨_, blockCompare_ordinary sz R d s, .inl rfl⟩
  · exact ⟨_, .compareElement .refl, .inr rfl⟩

/-- The repeating instructions keep every control but the block instruction under way. -/
theorem kept_repeat {i : Instr} {s t : State} (h : exec i s = .next t)
    (hi : (∃ sz p, i = .ldir sz p ∨ i = .lddr sz p) ∨ ∃ sz R, i = .cpir sz R ∨ i = .cpdr sz R) :
    s.Kept { t with repeating := s.repeating } (fun _ => True) (fun _ => True) := by
  have go {j : Repeating} {u : State} (ho : s.Ordinary u) (ht : t = u ∨ t = u.again j) :
      s.Kept { t with repeating := s.repeating } (fun _ => True) (fun _ => True) := by
    have hk := ho.kept
    rcases ht with rfl | rfl
    · exact { hk with
        registers := fun p hp => (hp trivial).elim
        repeating := rfl }
    · exact { hk with
        registers := fun p hp => (hp trivial).elim
        repeating := rfl }
  rcases hi with ⟨sz, p, rfl | rfl⟩ | ⟨sz, R, rfl | rfl⟩ <;> cases h
  · obtain ⟨u, ho, ht⟩ := blockLoadRepeat_eq (.ldir sz p) sz p (byteCount sz) s
    exact go ho ht
  · obtain ⟨u, ho, ht⟩ := blockLoadRepeat_eq (.lddr sz p) sz p (-byteCount sz) s
    exact go ho ht
  · obtain ⟨u, ho, ht⟩ := blockCompareRepeat_eq (.cpir sz R) sz R (byteCount sz) s
    exact go ho ht
  · obtain ⟨u, ho, ht⟩ := blockCompareRepeat_eq (.cpdr sz R) sz R (-byteCount sz) s
    exact go ho ht

/-- LDC cr,r writes the control register of its code. -/
theorem loadControl_eq_next {sz : Size} {cr : BitVec 8} {src : Out Slot} {s t : State}
    (h : loadControl sz cr src s = .next t) : ∃ c v, t = s.setCreg c v := by
  obtain ⟨c, -, h⟩ := andThen_eq_next h
  obtain ⟨a, -, h⟩ := andThen_eq_next h
  cases h
  exact ⟨c, _, rfl⟩

/-- Settles O12. -/
theorem srFieldsWrittenOnlyByTheirInstructions :
    Obligations.SrFieldsWrittenOnlyByTheirInstructions := by
  intro i s t h
  have keeps {u : State} {regs bytes} (hk : s.Kept u regs bytes) (hm : t.max = u.max)
      (hr : t.rfp = u.rfp) (hi : t.iff = u.iff) {P Q R : Prop} :
      (t.max ≠ s.max → P) ∧ (t.rfp ≠ s.rfp → Q) ∧ (t.iff ≠ s.iff → R) :=
    ⟨fun hne => absurd (hm.trans hk.max) hne, fun hne => absurd (hr.trans hk.rfp) hne,
      fun hne => absurd (hi.trans hk.iff) hne⟩
  rcases exec_ordinary h with hi | ho
  · cases hi with
    | popSR | reti => simp
    | min =>
      obtain ⟨rfl, -⟩ := setMax_eq_next h
      refine ⟨by simp, fun hne => absurd ?_ hne, fun hne => absurd (by simp) hne⟩
      unfold State.changeMode
      split
      · rfl
      · rfl
    | di | ei n =>
      cases h
      simp
    | incf | decf | ldf n =>
      cases h
      exact ⟨fun hne => absurd rfl hne, by simp, fun hne => absurd rfl hne⟩
    | halt | exFF =>
      cases h
      exact keeps (.refl s) (regs := noReg) (bytes := nowhere) rfl rfl rfl
    | swi n =>
      cases h
      exact keeps (kept_saveSrThenPc (s := s)) (by simp) (by simp) (by simp)
    | ldcCr sz cr r =>
      obtain ⟨c, v, rfl⟩ := loadControl_eq_next h
      exact keeps (.refl s) (regs := noReg) (bytes := nowhere) (by simp) (by simp) (by simp)
    | ldir sz p => exact keeps (kept_repeat h (.inl ⟨sz, p, .inl rfl⟩)) rfl rfl rfl
    | lddr sz p => exact keeps (kept_repeat h (.inl ⟨sz, p, .inr rfl⟩)) rfl rfl rfl
    | cpir sz R => exact keeps (kept_repeat h (.inr ⟨sz, R, .inl rfl⟩)) rfl rfl rfl
    | cpdr sz R => exact keeps (kept_repeat h (.inr ⟨sz, R, .inr rfl⟩)) rfl rfl rfl
  · exact keeps ho.kept rfl rfl rfl

/-- What `OtherCoreStateWrittenOnlyByItsInstructions` says of the other core state, but for what
`i` may write. -/
structure State.KeepsCore (s t : State) (i : Instr) : Prop where
  fAlt : t.fAlt ≠ s.fAlt → i = .exFF
  intnest : t.intnest ≠ s.intnest →
    (∃ n, i = .swi n) ∨ i = .reti ∨ ∃ sz cr r, i = .ldcCr sz cr r
  dma : t.dmas ≠ s.dmas ∨ t.dmad ≠ s.dmad ∨ t.dmac ≠ s.dmac ∨ t.dmam ≠ s.dmam →
    ∃ sz cr r, i = .ldcCr sz cr r
  halted : t.halted ≠ s.halted → i = .halt
  repeating : t.repeating ≠ s.repeating → (∃ sz p, i = .ldir sz p ∨ i = .lddr sz p) ∨
    ∃ sz R, i = .cpir sz R ∨ i = .cpdr sz R
  product : t.product = s.product
  offers : t.offers = s.offers

theorem State.Kept.keepsCore {s t : State} {regs bytes} (h : s.Kept t regs bytes) (i : Instr) :
    s.KeepsCore t i where
  fAlt hne := absurd h.fAlt hne
  intnest hne := absurd h.intnest hne
  dma hne := by simp [h.dmas, h.dmad, h.dmac, h.dmam] at hne
  halted hne := absurd h.halted hne
  repeating hne := absurd h.repeating hne
  product := h.product
  offers := h.offers

theorem exec_keepsCore {i : Instr} {s t : State} (h : exec i s = .next t) : s.KeepsCore t i := by
  have same : s.KeepsCore s i := (State.Kept.refl s (regs := noReg) (bytes := nowhere)).keepsCore i
  rcases exec_ordinary h with hi | ho
  · cases hi with
    | min =>
      obtain ⟨rfl, -⟩ := setMax_eq_next h
      exact ⟨by simp, by simp, by simp, by simp, by simp, by simp, by simp⟩
    | popSR =>
      obtain ⟨-, rfl⟩ := setSr_eq_next h
      exact ⟨by simp, by simp, by simp, by simp, by simp, by simp, by simp⟩
    | reti =>
      obtain ⟨u, hu, rfl⟩ := returnFromException_eq_next h
      obtain ⟨-, rfl⟩ := setSr_eq_next hu
      exact ⟨by simp, by simp, by simp, by simp, by simp, by simp, by simp⟩
    | di | ei n | incf | decf | ldf n =>
      cases h
      exact { same with }
    | halt =>
      cases h
      exact { same with halted := fun _ => rfl }
    | exFF =>
      cases h
      exact { same with fAlt := fun _ => rfl }
    | swi n =>
      cases h
      have hk := (kept_saveSrThenPc (s := s)).keepsCore (.swi n)
      exact { hk with intnest := fun _ => .inl ⟨n, rfl⟩ }
    | ldcCr sz cr r =>
      obtain ⟨c, v, rfl⟩ := loadControl_eq_next h
      exact ⟨by simp, fun _ => .inr (.inr ⟨sz, cr, r, rfl⟩), fun _ => ⟨sz, cr, r, rfl⟩,
        by simp, by simp, by simp, by simp⟩
    | ldir sz p =>
      exact { (kept_repeat h (.inl ⟨sz, p, .inl rfl⟩)).keepsCore (.ldir sz p) with
        repeating := fun _ => .inl ⟨sz, p, .inl rfl⟩ }
    | lddr sz p =>
      exact { (kept_repeat h (.inl ⟨sz, p, .inr rfl⟩)).keepsCore (.lddr sz p) with
        repeating := fun _ => .inl ⟨sz, p, .inr rfl⟩ }
    | cpir sz R =>
      exact { (kept_repeat h (.inr ⟨sz, R, .inl rfl⟩)).keepsCore (.cpir sz R) with
        repeating := fun _ => .inr ⟨sz, R, .inl rfl⟩ }
    | cpdr sz R =>
      exact { (kept_repeat h (.inr ⟨sz, R, .inr rfl⟩)).keepsCore (.cpdr sz R) with
        repeating := fun _ => .inr ⟨sz, R, .inr rfl⟩ }
  · exact ho.kept.keepsCore i

/-- Settles O13. -/
theorem otherCoreStateWrittenOnlyByItsInstructions :
    Obligations.OtherCoreStateWrittenOnlyByItsInstructions := by
  intro i s t h
  have hk := exec_keepsCore h
  exact ⟨hk.fAlt, hk.intnest, hk.dma, hk.halted, hk.repeating, hk.product, hk.offers⟩

/-! ## Words of the spec -/

/-- Settles O3: each word is the encoding of its instruction, which O1 decodes. -/
theorem specWordsDecode : Obligations.SpecWordsDecode :=
  ⟨decodeReadsEncodedInstruction (.ldar .L 4 0x1341) [] rfl,
    decodeReadsEncodedInstruction (.ldi .B .ixIy) [] rfl,
    decodeReadsEncodedInstruction (.divRr .W 4 (.short 5)) [] rfl,
    decodeReadsEncodedInstruction (.swi 5) [] rfl,
    decodeReadsEncodedInstruction (.addRr .B 1 (.short 2)) [] rfl,
    decodeReadsEncodedInstruction (.minc1 0x0007 (.short 4)) [] rfl,
    decodeReadsEncodedInstruction (.mula (.short 4)) [] rfl,
    decodeReadsEncodedInstruction .di [] rfl⟩

/-! ## One step -/

theorem instruction_of_decode {s : State} {i : Instr} {n : Nat} (hh : s.halted = false)
    (hr : s.repeating = none) (hd : decode s.fetchBytes = .ok (i, n)) :
    instruction s = exec i (s.advance n) := by
  simp [instruction, hh, hr, hd]

theorem instruction_of_repeating {s : State} {i : Repeating} (hh : s.halted = false)
    (hr : s.repeating = some i) : instruction s = exec i.instr (s.advance 2) := by
  simp [instruction, hh, hr]

theorem step_of_no_offer {s : State} (h : s.offers = []) : step s = instruction s := by
  simp [step, h]

theorem step_of_not_accepted {s : State} {o : Offer} {later : List Offer}
    (h : s.offers = o :: later) (ha : ({ s with offers := later } : State).accept o = none) :
    step s = instruction { s with offers := later } := by
  simp [step, h, ha]

/-- Settles O5. -/
theorem stepRunsDecodedInstruction : Obligations.StepRunsDecodedInstruction := by
  intro s hh
  refine ⟨fun i n hr hd => ⟨?_, fun h => ?_, fun o later h ha => ?_⟩, fun sz p R => ?_⟩
  · obtain ⟨rest, -, hwf, -⟩ := decode_eq_ok hd
    exact hwf
  · rw [step_of_no_offer h, instruction_of_decode hh hr hd]
    rfl
  · rw [step_of_not_accepted h ha]
    exact instruction_of_decode hh hr hd
  have goesOn {i : Repeating} (hr : s.repeating = some i) :
      (s.offers = [] → step s = exec i.instr (s.advance 2)) ∧
      ∀ (o : Offer) (later : List Offer), s.offers = o :: later →
        ({ s with offers := later } : State).accept o = none →
        step s = exec i.instr (({ s with offers := later } : State).advance 2) := by
    refine ⟨fun h => ?_, fun o later h ha => ?_⟩
    · rw [step_of_no_offer h, instruction_of_repeating hh hr]
    · rw [step_of_not_accepted h ha]
      exact instruction_of_repeating hh hr
  exact ⟨fun hr => goesOn hr, fun hr => goesOn hr, fun hr => goesOn hr, fun hr => goesOn hr⟩

/-! ## Register codes -/

/-- The banked and fixed registers by bits 3:2 of a register code (R66). -/
def codeRows : List (Nat × BankedReg × FixedReg) :=
  [(0, .xwa, .xix), (1, .xbc, .xiy), (2, .xde, .xiz), (3, .xhl, .xsp)]

theorem maxModeRegMap_bank : ∀ i < 4, ∀ k < 4, ∀ q ∈ codeRows,
    maxModeRegMap (BitVec.ofNat 8 (16 * i + (4 * q.1 + k))) =
      some ⟨.abs (BitVec.ofNat 3 i) q.2.1, BitVec.ofNat 2 k⟩ := by
  decide

theorem maxModeRegMap_none : ∀ i < 13, 4 ≤ i → ∀ k < 4, ∀ q ∈ codeRows,
    maxModeRegMap (BitVec.ofNat 8 (16 * i + (4 * q.1 + k))) = none := by
  decide

theorem maxModeRegMap_named : ∀ k < 4, ∀ q ∈ codeRows,
    maxModeRegMap (BitVec.ofNat 8 (0xD0 + (4 * q.1 + k))) =
      some ⟨.prev q.2.1, BitVec.ofNat 2 k⟩ ∧
    maxModeRegMap (BitVec.ofNat 8 (0xE0 + (4 * q.1 + k))) =
      some ⟨.cur q.2.1, BitVec.ofNat 2 k⟩ ∧
    maxModeRegMap (BitVec.ofNat 8 (0xF0 + (4 * q.1 + k))) =
      some ⟨.fixed q.2.2, BitVec.ofNat 2 k⟩ := by
  decide

/-- RFP modulo the four banks of maximum mode, and the bank before it (R14). -/
theorem rfpIn_true (v : BitVec 3) : rfpIn true v = BitVec.ofNat 3 (v.toNat % 4) ∧
    rfpIn true (v - 1) = BitVec.ofNat 3 ((v.toNat + 3) % 4) := by
  revert v
  decide

/-- Settles O16. -/
theorem registerCodesNameTheirRegisters : Obligations.RegisterCodesNameTheirRegisters := by
  refine ⟨rfl, fun sz hsz => ?_, fun s hmax i k hk q hq => ?_, fun s hmax k => ?_⟩
  · cases sz with
    | B => exact absurd rfl hsz
    | W | L => rfl
  · have hmap (code : BitVec 8) : s.regMap code = maxModeRegMap code := if_pos hmax
    simp only [hmap]
    obtain ⟨hprev, hcur, hfixed⟩ := maxModeRegMap_named k hk q hq
    exact ⟨fun hi => maxModeRegMap_bank i hi k hk q hq,
      fun hi => maxModeRegMap_none i hi.2 hi.1 k hk q hq, hprev, hcur, hfixed⟩
  · obtain ⟨hcur, hprev⟩ := rfpIn_true s.rfp
    simp only [State.place, State.curBank, State.prevBank, hmax, hcur, hprev, and_self]

/-! ## SR, conditions and flags -/

/-- Bits 5 and 3 of the byte of F read 0 (R25). -/
theorem byte_ofByte (b : Byte) : (Flags.ofByte b).byte = b &&& 0xD7 := by
  revert b
  decide

theorem byte_getLsbD (f : Flags) :
    f.byte.getLsbD 7 = f.s ∧ f.byte.getLsbD 6 = f.z ∧ f.byte.getLsbD 5 = false ∧
    f.byte.getLsbD 4 = f.h ∧ f.byte.getLsbD 3 = false ∧ f.byte.getLsbD 2 = f.v ∧
    f.byte.getLsbD 1 = f.n ∧ f.byte.getLsbD 0 = f.c := by
  obtain ⟨s, z, h, v, n, c⟩ := f
  revert s z h v n c
  decide

/-- The low byte of SR is F (R20). -/
theorem sr_getLsbD (s : State) {i : Nat} (hi : i < 8) : s.sr.getLsbD i = s.f.byte.getLsbD i := by
  rw [State.sr, BitVec.getLsbD_append, if_pos hi]

/-- Settles O18. -/
theorem srReadsItsFields : Obligations.SrReadsItsFields := by
  refine ⟨fun s => ?_, Flags.ofByte_byte, byte_ofByte⟩
  obtain ⟨h7, h6, h5, h4, h3, h2, h1, h0⟩ := byte_getLsbD s.f
  have low {i : Nat} {b : Bool} (hi : i < 8) (h : s.f.byte.getLsbD i = b) :
      s.sr.getLsbD i = b := (sr_getLsbD s hi).trans h
  have hsysm : s.sr.getLsbD 15 = true := by
    simp only [State.sr, BitVec.getLsbD_append]
    simp
  exact ⟨hsysm, sr_iff s, sr_max s, sr_rfp s, low (by decide) h7, low (by decide) h6,
    low (by decide) h5, low (by decide) h4, low (by decide) h3, low (by decide) h2,
    low (by decide) h1, low (by decide) h0⟩

/-- The condition of the code with bit 3 flipped is the negation. -/
theorem holds_negated (f : Flags) (c : BitVec 4) :
    f.holds (Cond.ofCode (c ^^^ 8)) = !f.holds (Cond.ofCode c) := by
  obtain ⟨s, z, h, v, n, cy⟩ := f
  revert s z h v n cy c
  decide

/-- Settles O19. -/
theorem conditionsAreTheFlagsTheTableNames : Obligations.ConditionsAreTheFlagsTheTableNames := by
  intro f
  have hne (a b : Bool) : (a != b) = (a ^^ b) := by cases a <;> cases b <;> rfl
  exact ⟨rfl, hne f.s f.v, congrArg (f.z || ·) (hne f.s f.v), rfl, rfl, rfl, rfl, rfl,
    holds_negated f, code_ofCode⟩

/-! ## Sums and differences -/

/-- Below twice a modulus a remainder is a case split. -/
theorem mod_of_lt_double {x M : Nat} (h : x < 2 * M) : x % M = if x < M then x else x - M := by
  split
  · exact Nat.mod_eq_of_lt ‹_›
  · rw [Nat.mod_eq_sub_mod (by omega), Nat.mod_eq_of_lt (by omega)]

/-- The sign and the signed value of a word over half of its modulus. -/
theorem signed_over_half {w : Nat} (hw : 0 < w) {m : Nat} (hm : 2 ^ (w - 1) = m) :
    2 ^ w = 2 * m ∧ ∀ a : BitVec w, a.toNat < 2 * m ∧ a.msb = decide (m ≤ a.toNat) ∧
      a.toInt = if m ≤ a.toNat then (a.toNat : Int) - 2 * m else a.toNat := by
  have hM : 2 ^ w = 2 * m := by
    rw [← hm, ← Nat.pow_succ']
    congr 1
    omega
  refine ⟨hM, fun a => ⟨hM ▸ a.isLt, by rw [BitVec.msb_eq_decide, hm], ?_⟩⟩
  rw [BitVec.toInt_eq_toNat_cond, hM]
  split <;> split <;> omega

/-- Overflow of a sum: equal signs of the operands and another one of the result. -/
theorem addFlags_v {w : Nat} (hw : 0 < w) (a b : BitVec w) (cin long u : Bool) :
    ((addFlags a b cin long u).2.v = true ↔
        a.msb = b.msb ∧ (addFlags a b cin long u).1.msb ≠ a.msb) ∧
      ((addFlags a b cin long u).2.v = true ↔ a.toInt + b.toInt + cin.toNat < -2 ^ (w - 1) ∨
        2 ^ (w - 1) ≤ a.toInt + b.toInt + cin.toNat) := by
  have hv : (addFlags a b cin long u).2.v = true ↔
      a.msb = b.msb ∧ (addFlags a b cin long u).1.msb ≠ a.msb := by
    simp [addFlags]
  refine ⟨hv, hv.trans ?_⟩
  have hr : (addFlags a b cin long u).1.toNat = (a.toNat + b.toNat + cin.toNat) % 2 ^ w :=
    BitVec.toNat_ofNat _ _
  have hpow : (2 : Int) ^ (w - 1) = (2 ^ (w - 1) : Nat) := by push_cast; rfl
  obtain ⟨m, hm⟩ : ∃ m, 2 ^ (w - 1) = m := ⟨_, rfl⟩
  obtain ⟨hM, signed⟩ := signed_over_half hw hm
  obtain ⟨ha, hsa, hia⟩ := signed a
  obtain ⟨hb, hsb, hib⟩ := signed b
  obtain ⟨-, hsr, -⟩ := signed (addFlags a b cin long u).1
  have hc := cin.toNat_le
  rw [hM, mod_of_lt_double (by omega)] at hr
  rw [hpow, hm, hsr, hsa, hsb, hia, hib, ne_eq, decide_eq_decide, decide_eq_decide, hr]
  split_ifs <;> omega

/-- Settles O20. -/
theorem addFlagsFollowTheSum : Obligations.AddFlagsFollowTheSum := by
  intro w a b cin long u hw
  obtain ⟨hv, hoverflow⟩ := addFlags_v hw a b cin long u
  refine ⟨BitVec.toNat_ofNat _ _, BitVec.msb_eq_getLsbD_last _, by simp [addFlags], ?_, ?_,
    hv, hoverflow, rfl, by simp [addFlags]⟩
  · rintro rfl
    rfl
  · rintro rfl
    simp [addFlags]

/-- The difference, which is that of the integers or 2^w more. -/
theorem subFlags_toNat {w : Nat} (hw : 0 < w) (a b : BitVec w) (bin long u : Bool) :
    ((subFlags a b bin long u).1.toNat : Int) =
      (a.toNat : Int) - b.toNat - bin.toNat +
        if a.toNat < b.toNat + bin.toNat then ((2 ^ w : Nat) : Int) else 0 := by
  have ha := a.isLt
  have hb := b.isLt
  have hc := bin.toNat_le
  have hbin : bin.toNat % 2 ^ w = bin.toNat :=
    Nat.mod_eq_of_lt (Nat.lt_of_le_of_lt hc (Nat.one_lt_two_pow (by omega)))
  have hpos := Nat.one_lt_two_pow (n := w) (by omega)
  simp only [subFlags, BitVec.toNat_sub, BitVec.toNat_ofNat, hbin]
  generalize 2 ^ w = M at *
  have hinner := mod_of_lt_double (x := M - b.toNat + a.toNat) (M := M) (by omega)
  have houter := mod_of_lt_double (x := M - bin.toNat + (M - b.toNat + a.toNat) % M) (M := M)
    (by have := Nat.mod_lt (M - b.toNat + a.toNat) (y := M) (by omega); omega)
  split at hinner <;> split at houter <;> split <;> omega

/-- Overflow of a difference: other signs of the operands and a result of the second's. -/
theorem subFlags_v {w : Nat} (hw : 0 < w) (a b : BitVec w) (bin long u : Bool) :
    ((subFlags a b bin long u).2.v = true ↔
        a.msb ≠ b.msb ∧ (subFlags a b bin long u).1.msb ≠ a.msb) ∧
      ((subFlags a b bin long u).2.v = true ↔ a.toInt - b.toInt - bin.toNat < -2 ^ (w - 1) ∨
        2 ^ (w - 1) ≤ a.toInt - b.toInt - bin.toNat) := by
  have hv : (subFlags a b bin long u).2.v = true ↔
      a.msb ≠ b.msb ∧ (subFlags a b bin long u).1.msb ≠ a.msb := by
    simp [subFlags]
  refine ⟨hv, hv.trans ?_⟩
  have hr := subFlags_toNat hw a b bin long u
  have hpow : (2 : Int) ^ (w - 1) = (2 ^ (w - 1) : Nat) := by push_cast; rfl
  obtain ⟨m, hm⟩ : ∃ m, 2 ^ (w - 1) = m := ⟨_, rfl⟩
  obtain ⟨hM, signed⟩ := signed_over_half hw hm
  obtain ⟨ha, hsa, hia⟩ := signed a
  obtain ⟨hb, hsb, hib⟩ := signed b
  obtain ⟨-, hsr, -⟩ := signed (subFlags a b bin long u).1
  have hc := bin.toNat_le
  rw [hM] at hr
  rw [hpow, hm, hsr, hsa, hsb, hia, hib, ne_eq, ne_eq, decide_eq_decide, decide_eq_decide]
  split_ifs at * <;> omega

/-- Settles O21. -/
theorem subFlagsFollowTheDifference : Obligations.SubFlagsFollowTheDifference := by
  intro w a b bin long u hw
  obtain ⟨hv, hoverflow⟩ := subFlags_v hw a b bin long u
  refine ⟨?_, BitVec.msb_eq_getLsbD_last _, by simp [subFlags], ?_, ?_, hv, hoverflow, rfl,
    by simp [subFlags]⟩
  · have hr := subFlags_toNat hw a b bin long u
    have hlt : ((subFlags a b bin long u).1.toNat : Int) < 2 ^ w := by
      exact_mod_cast (subFlags a b bin long u).1.isLt
    have hpow : ((2 ^ w : Nat) : Int) = 2 ^ w := by push_cast; rfl
    rw [hpow] at hr
    split at hr
    · rw [← Int.add_emod_right, ← hr, Int.emod_eq_of_lt (by omega) hlt]
    · rw [add_zero] at hr
      rw [← hr, Int.emod_eq_of_lt (by omega) hlt]
  · rintro rfl
    rfl
  · rintro rfl
    simp [subFlags]

/-! ## Parity and the two-operand operations -/

/-- Parity bit by bit is the parity of the count. -/
theorem evenOnes_iff {w : Nat} (v : BitVec w) (n : Nat) :
    evenOnes v n = true ↔ Even ((List.range n).countP fun i => v.getLsbD i) := by
  induction n with
  | zero => simp [evenOnes]
  | succ n ih =>
    rw [evenOnes, List.range_succ, List.countP_append, List.countP_singleton]
    cases hb : v.getLsbD n with
    | false => simpa using ih
    | true => simpa [Nat.even_add_one] using not_congr ih

/-- Settles O22. -/
theorem parityCountsTheOnes : Obligations.ParityCountsTheOnes := by
  intro sz v u
  refine ⟨fun h => ?_, fun h => by simp [parity, h]⟩
  rw [parity, if_neg (by simpa using h)]
  exact evenOnes_iff v _

/-- Settles O23. -/
theorem aluOperationsComputeTheirResults : Obligations.AluOperationsComputeTheirResults := by
  refine ⟨fun s op sz a b => rfl, fun w a b f long u => ⟨rfl, rfl, rfl, rfl, rfl, ?_⟩⟩
  simp only [List.forall_mem_cons]
  exact ⟨rfl, rfl, rfl, by simp⟩

end Sys2Proof.Machine
end

section
/-!
SUPPORT. Loads and exchanges of registers and memory, and the two-operand operations with memory.
-/

namespace Sys2Proof.Machine

/-! ## Loads -/

section

variable {s : State} {sz : Size} {dst src : Out Slot} {d a : Slot} {m : MemOp} {e : Eff}

theorem loadReg_setsReg (hd : dst = .next d) (hf : d.fits sz) (v : BitVec sz.bits) :
    ∃ t, loadReg sz dst v s = .next t ∧ s.SetsReg t sz d v ∧ t.f = s.f :=
  ⟨_, by rw [loadReg, hd, andThen_next], setsReg_setSlot hf, by simp⟩

theorem copyReg_setsReg (hd : dst = .next d) (ha : src = .next a) (hf : d.fits sz) :
    ∃ t, copyReg sz dst src s = .next t ∧ s.SetsReg t sz d (s.slot sz a) ∧ t.f = s.f :=
  ⟨_, by rw [copyReg, hd, ha, andThen_next, andThen_next], setsReg_setSlot hf, by simp⟩

theorem loadMem_loadsReg (hd : dst = .next d) (hf : d.fits sz) (he : s.eff m = .next e) :
    ∃ t, loadMem sz dst m s = .next t ∧ t.f = s.f ∧
      s.LoadsReg t sz e d ((s.preStep e).memRead sz e.addr) nowhere :=
  ⟨_, by rw [loadMem, hd, andThen_next, withMem_of_eff _ he], by simp,
    loadsReg_of he hf (.refl _) (by simp)⟩

end

/-- Settles O27. -/
theorem loadRegisterForms : Obligations.LoadRegisterForms := by
  intro s sz R r d a
  have bool (b : Bool) : BitVec.ofNat sz.bits b.toNat = (BitVec.ofBool b).setWidth _ := by
    rw [← BitVec.ofNat_toNat]
    cases b <;> rfl
  refine ⟨fun v hd => ?imm8, fun v hd => ?imm16, fun v hd => ?imm32, fun v hd => ?imm,
    fun n hd => ?number, fun hd ha => ?fromOther, fun hd ha => ?toOther, fun d16 hd => ?ldar,
    fun cc hd => ?scc⟩
  case imm8 | imm16 | imm32 => exact loadReg_setsReg hd (shortSlot_fits hd) v
  case imm => exact loadReg_setsReg hd (regSlot_fits hd) v
  case number =>
    rw [BitVec.ofNat_toNat]
    exact loadReg_setsReg hd (regSlot_fits hd) _
  case fromOther => exact copyReg_setsReg hd ha (shortSlot_fits hd)
  case toOther => exact copyReg_setsReg hd ha (regSlot_fits hd)
  case ldar => exact loadReg_setsReg hd (shortSlot_fits hd) _
  case scc =>
    rw [bool]
    exact loadReg_setsReg hd (regSlot_fits hd) _

/-- Settles O44. -/
theorem loadFromMemoryForm : Obligations.LoadFromMemoryForm := by
  intro s sz R m d e hd he
  exact loadMem_loadsReg hd (shortSlot_fits hd) he

/-! ## The two-operand operations with memory -/

theorem exec_aluRegMem (op : AluOp) (sz : Size) (R : BitVec 3) (m : MemOp) (s : State) :
    exec (op.regMem sz R m) s = aluRegMem op sz (s.shortSlot sz R) m s := by
  cases op <;> rfl

theorem exec_aluMemReg (op : AluOp) (sz : Size) (m : MemOp) (R : BitVec 3) (s : State) :
    exec (op.memReg sz m R) s = aluMemReg op sz m (s.shortSlot sz R) s := by
  cases op <;> rfl

theorem exec_aluMemImm (op : AluOp) (sz : Size) (m : MemOp) (imm : BitVec sz.bits) (s : State) :
    exec (op.memImm sz m imm) s = aluMemImm op sz m imm s := by
  cases op <;> rfl

section

variable {s : State} {op : AluOp} {sz : Size} {m : MemOp} {e : Eff} {d : Slot}

/-- New flags and a draw change nothing that a frame speaks of. -/
theorem kept_flags_drawn (t : State) (g : Flags) (n : Nat) {regs bytes} :
    t.Kept ({ t with f := g }.drawn n) regs bytes :=
  (kept_withFlags t g).trans (kept_drawn _ n)

theorem aluRegMem_loadsReg {dst : Out Slot} (hd : dst = .next d) (hf : d.fits sz)
    (he : s.eff m = .next e) :
    let x := (s.preStep e).aluResult op sz ((s.preStep e).slot sz d)
      ((s.preStep e).memRead sz e.addr)
    ∃ t, aluRegMem op sz dst m s = .next t ∧ t.f = x.2 ∧
      (op ≠ .cp → s.LoadsReg t sz e d x.1 nowhere) ∧ (op = .cp → s.ReadsMem t e) := by
  refine ⟨_, by rw [aluRegMem, hd, andThen_next, withMem_of_eff _ he], ?_, fun hop => ?_,
    fun hop => ?_⟩
  · split <;> simp
  · rw [if_neg hop]
    exact loadsReg_of he hf (kept_flags_drawn _ _ 1) (by simp)
  · rw [if_pos hop]
    exact readsMem_of he (kept_flags_drawn _ _ 1) (by simp)

theorem aluMem_setsMem (he : s.eff m = .next e) (hwf : Memory.wf s.mem = true)
    (b : BitVec sz.bits) :
    let x := (s.preStep e).aluResult op sz ((s.preStep e).memRead sz e.addr) b
    ((s.preStep e).aluMem op sz e b).f = x.2 ∧
      (op ≠ .cp → s.SetsMem ((s.preStep e).aluMem op sz e b) sz e x.1) ∧
      (op = .cp → s.ReadsMem ((s.preStep e).aluMem op sz e b) e) := by
  refine ⟨by simp [State.aluMem], fun hop => ?_, fun hop => ?_⟩
  · rw [State.aluMem, if_neg hop]
    exact setsMem_of he hwf (kept_flags_drawn _ _ 1) (by simp)
  · rw [State.aluMem, if_pos hop]
    exact readsMem_of he (kept_flags_drawn _ _ 1) (by simp)

end

/-- Settles O32. -/
theorem aluMemoryForms : Obligations.AluMemoryForms := by
  intro s op sz R m e hwf he
  refine ⟨fun d hd => ?regMem, fun a ha => ?memReg, fun imm => ?memImm⟩
  case regMem =>
    rw [exec_aluRegMem]
    exact aluRegMem_loadsReg hd (shortSlot_fits hd) he
  case memReg =>
    rw [exec_aluMemReg, aluMemReg, ha, andThen_next, withMem_of_eff _ he]
    exact ⟨_, rfl, aluMem_setsMem he hwf _⟩
  case memImm =>
    rw [exec_aluMemImm, aluMemImm, withMem_of_eff _ he]
    exact ⟨_, rfl, aluMem_setsMem he hwf _⟩

/-! ## Exchanges -/

/-- Two parts of the same size that share no bit. -/
def Slot.apart (d a : Slot) (sz : Size) : Prop :=
  d.reg ≠ a.reg ∨ d.off.toNat + sz.bytes ≤ a.off.toNat ∨ a.off.toNat + sz.bytes ≤ d.off.toNat

/-- A write to one part keeps a bit of another register, or of the same one outside the part. -/
theorem getLsbD_setSlot_outside {s : State} {sz : Size} {a : Slot} {v : BitVec sz.bits} {p : PReg}
    {i : Nat} (hf : a.fits sz) (h : p = a.reg → i < a.lsb ∨ a.lsb + sz.bits ≤ i) :
    ((s.setSlot sz a v).reg p).getLsbD i = (s.reg p).getLsbD i := by
  by_cases hp : p = a.reg
  · subst hp
    exact (wrote_setSlot s sz a v hf).rest i (h rfl)
  · rw [(kept_setSlot s sz a v).registers p hp]

/-- A write to one part keeps the value of a part apart from it. -/
theorem slot_setSlot_apart {s : State} {sz : Size} {d a : Slot} {v : BitVec sz.bits}
    (hf : a.fits sz) (h : d.apart a sz) : (s.setSlot sz a v).slot sz d = s.slot sz d := by
  apply BitVec.eq_of_getLsbD_eq
  intro i hi
  have hb := bits_eq sz
  simp only [State.slot, BitVec.getLsbD_extractLsb', hi, decide_true, Bool.true_and]
  refine getLsbD_setSlot_outside hf fun hreg => ?_
  simp only [Slot.lsb]
  rcases h with h | h | h
  · exact absurd hreg h
  · exact .inl (by omega)
  · exact .inr (by omega)

section

variable {s : State} {sz : Size} {d a : Slot}

/-- Two parts that are the same or apart hold each other's value. -/
theorem exchange_values (hd : d.fits sz) (ha : a.fits sz) (h : d = a ∨ d.apart a sz) :
    let t := (s.setSlot sz d (s.slot sz a)).setSlot sz a (s.slot sz d)
    t.slot sz d = s.slot sz a ∧ t.slot sz a = s.slot sz d := by
  have hwrote := (wrote_setSlot (s.setSlot sz d (s.slot sz a)) sz a (s.slot sz d) ha).value
  refine ⟨?_, hwrote⟩
  rcases h with rfl | h
  · exact hwrote
  · rw [slot_setSlot_apart ha h]
    exact (wrote_setSlot s sz d _ hd).value

theorem kept_exchange {v w : BitVec sz.bits} :
    s.Kept ((s.setSlot sz d v).setSlot sz a w) (fun p => p = d.reg ∨ p = a.reg) nowhere :=
  ((kept_setSlot s sz d v).mono (fun _ h => .inl h) fun _ h => h).trans
    ((kept_setSlot _ sz a w).mono (fun _ h => .inr h) fun _ h => h)

end

/-- Settles O30. -/
theorem exchangeForms : Obligations.ExchangeForms := by
  intro s sz R r d a
  refine ⟨fun hd ha h => ?regs, fun m e hwf ha he => ?mem, rfl⟩
  case regs =>
    have hdf := shortSlot_fits hd
    have haf := regSlot_fits ha
    obtain ⟨hvd, hva⟩ := exchange_values (s := s) hdf haf h
    refine ⟨_, by rw [exec, execExRr, exchangeRegs, hd, ha, andThen_next, andThen_next], hvd,
      hva, by simp, by simp, kept_exchange, fun i hi hia => ?_, fun i hi hid => ?_⟩
    · rw [getLsbD_setSlot_outside haf hia, getLsbD_setSlot_outside hdf fun _ => hi]
    · rw [getLsbD_setSlot_outside haf fun _ => hi,
        getLsbD_setSlot_outside hdf fun h => hid h.symm]
  case mem =>
    have haf := shortSlot_fits ha
    have hpre : Memory.wf (s.preStep e).mem = true := by simpa using hwf
    have hst := stored_memWrite (s.preStep e) sz e.addr ((s.preStep e).slot sz a) hpre
    refine ⟨_, by rw [exec, execExmR, exchangeMem, ha, andThen_next, withMem_of_eff _ he],
      loadsReg_of he haf (kept_memWrite _ sz e.addr _) (by simp), ?_, by simp⟩
    exact hst.of_cells (fun x => cell_congr (by simp) x) (by simp)
      fun x => (kept_setSlotAndStep _ e sz a _).memory x id

end Sys2Proof.Machine
end

section
/-!
SUPPORT. Jumps, calls and returns; the loads of control registers and of SR.
-/

namespace Sys2Proof.Machine

/-! ## An address that is not accessed -/

section

variable {s : State} {m : MemOp} {e : Eff}

/-- The mode's register is left as it is, or it is stepped (notes/assumptions/26.md). -/
theorem addressOnly_eq (s : State) (e : Eff) (k : State → State) :
    (∃ n, s.addressOnly e k = k (s.drawn n)) ∨
      ∃ n, s.addressOnly e k = (k ((s.preStep e).drawn n)).postStep e := by
  unfold State.addressOnly
  split
  · split
    · exact .inr ⟨1, by rw [preStep_drawn]⟩
    · exact .inl ⟨1, rfl⟩
  · exact .inl ⟨0, rfl⟩

theorem addressOnly_of_none (hs : e.stepping = .none) (k : State → State) :
    s.addressOnly e k = k s := by
  simp [State.addressOnly, Eff.stepped, hs]

/-- A jump after an address keeps all but the pc and the mode's register. -/
theorem addressOnly_jump (he : s.eff m = .next e) (a : Word32) :
    let t := s.addressOnly e fun u => u.jump a
    t.pc = s.pcOf a ∧ t.f = s.f ∧ s.Kept t e.stepsReg nowhere ∧
      (s.SteppedTo t e ∨ ∀ p, e.stepsReg p → t.reg p = s.reg p) := by
  intro t
  rcases addressOnly_eq s e fun u => u.jump a with ⟨n, ht⟩ | ⟨n, ht⟩
  · have hk : s.Kept ((s.drawn n).jump a) noReg nowhere := (kept_drawn s n).trans (kept_jump _ a)
    rw [show t = _ from ht]
    exact ⟨rfl, rfl, hk.widen fun _ => False.elim, .inr fun p _ => hk.registers p id⟩
  · have hk : (s.preStep e).Kept (((s.preStep e).drawn n).jump a) noReg nowhere :=
      (kept_drawn _ n).trans (kept_jump _ a)
    rw [show t = _ from ht]
    refine ⟨?_, by simp, ?_, .inl (steppedTo_of he fun p _ => hk.registers p id)⟩
    · simp [State.jump, State.pcOf]
    · exact ((kept_preStep s e).trans (hk.widen fun _ => False.elim)).trans (kept_postStep _ e)

/-- A conditional transfer to an effective address goes on with it, where it is not refused. -/
theorem jumpMem_eq {cc : Cond} (he : s.eff m = .next e)
    (hs : e.stepping = .none ∨ s.product.bareStep = .free) : jumpMem cc m s = .next
      (if s.f.holds cc then s.addressOnly e fun t => t.jump e.addr else s) := by
  rw [jumpMem, addressEff_of_eff he hs, andThen_next]

theorem callMem_eq {cc : Cond} (he : s.eff m = .next e)
    (hs : e.stepping = .none ∨ s.product.bareStep = .free) : callMem cc m s = .next
      (if s.f.holds cc then s.addressOnly e fun t => t.pushPc.jump e.addr else s) := by
  rw [callMem, addressEff_of_eff he hs, andThen_next]

end

/-! ## Jumps -/

/-- 16 bits are a pc value in either mode. -/
theorem pcOf_setWidth16 (s : State) (a : BitVec 16) : s.pcOf (a.setWidth 32) = a.setWidth 32 := by
  unfold State.pcOf
  split
  · rfl
  · exact congrArg (BitVec.setWidth 32) (show (a.setWidth 32).setWidth 16 = a by simp)

theorem jump_if (s : State) (b : Bool) (a : Word32) :
    (if b then s.jump a else s) = { s with pc := if b then s.pcOf a else s.pc } := by
  cases b <;> rfl

/-- DJNZ writes the count and jumps unless it has become 0. -/
theorem decrementJump_wrote {s : State} {sz : Size} {dst : Out Slot} {d : Slot} (hd : dst = .next d)
    (hf : d.fits sz) (d8 : BitVec 8) :
    ∃ t, decrementJump sz dst d8 s = .next t ∧ s.Wrote t sz d (s.slot sz d - 1) ∧
      s.Kept t (fun p => p = d.reg) nowhere ∧ t.f = s.f ∧
      t.pc = if s.slot sz d = 1 then s.pc else s.pcOf (s.pc + d8.signExtend 32) := by
  have hzero : s.slot sz d - 1 = 0 ↔ s.slot sz d = 1 := sub_eq_zero
  have hk := kept_setSlot s sz d (s.slot sz d - 1)
  have hw := wrote_setSlot s sz d (s.slot sz d - 1) hf
  refine ⟨_, by rw [decrementJump, hd, andThen_next], ?_⟩
  simp only [hzero]
  by_cases h : s.slot sz d = 1
  · rw [if_pos h, if_pos h]
    exact ⟨hw, hk, by simp, by simp⟩
  · rw [if_neg h, if_neg h]
    have hj := kept_jump (regs := noReg) (bytes := nowhere) (s.setSlot sz d (s.slot sz d - 1))
      ((s.setSlot sz d (s.slot sz d - 1)).pc + d8.signExtend 32)
    refine ⟨hw.of_reg (hj.registers _ id), hk.trans (kept_jump _ _), by simp, ?_⟩
    simp [State.jump, State.pcOf]

/-- Settles O52. -/
theorem jumpForms : Obligations.JumpForms := by
  intro s
  refine ⟨fun a => ?jp16, fun a => rfl, fun cc d => ?jr, fun cc d => ?jrl,
    fun cc m e he hs => ?jpm, fun sz r d8 d hd => ?djnz⟩
  case jp16 => exact congrArg (fun x => Host.Outcome.next { s with pc := x }) (pcOf_setWidth16 s a)
  case jr | jrl => exact congrArg Host.Outcome.next (jump_if s _ _)
  case jpm =>
    rw [show exec (.jpm cc m) s = jumpMem cc m s from rfl, jumpMem_eq he hs]
    refine ⟨fun hc => by rw [hc]; rfl, fun hc hn => ?_, fun hc => ?_⟩
    · rw [hc, if_pos rfl, addressOnly_of_none hn]
      rfl
    · rw [hc, if_pos rfl]
      exact ⟨_, rfl, addressOnly_jump he e.addr⟩
  case djnz => exact decrementJump_wrote hd (regSlot_fits hd) d8

/-! ## Calls and returns -/

section

variable {s u t : State} {sz : Size} {v : BitVec sz.bits} {m : MemOp} {e : Eff}

/-- A push after a step that keeps XSP and memory is a push from the state before it. -/
theorem State.Pushes.of_kept {more : PReg → Prop} (h : u.Pushes t sz v more)
    (hk : s.Kept u more nowhere) (hx : u.xsp = s.xsp) : s.Pushes t sz v more where
  stored := by
    rw [← hx]
    exact h.stored.of_cells (fun x => (hk.memory x id).symm) hk.product.symm fun _ => rfl
  kept := by
    rw [← hx]
    exact (hk.mono (fun _ => .inr) fun _ h => h.elim).trans h.kept

/-- A push in the mode of the pc and a jump, with draws before and a step of `more` after. -/
theorem pushes_pushPc_jump (hwf : Memory.wf s.mem = true) (n : Nat) (a : Word32)
    {more : PReg → Prop} (hu : ((s.drawn n).pushPc.jump a).Kept t more nowhere) :
    s.Pushes t s.pcSize (s.pc.setWidth _) more := by
  have hp : (s.drawn n).Pushes t s.pcSize (s.pc.setWidth _) more :=
    pushes_of hwf ((kept_jump _ a).trans hu)
  exact hp.of_kept (kept_drawn s n) rfl

theorem pc_pushPc_jump (s : State) (n : Nat) (a : Word32) :
    ((s.drawn n).pushPc.jump a).pc = s.pcOf a := by
  simp [State.jump, State.pcOf]

/-- The transfer of a CALL to an absolute address. -/
theorem calls (hwf : Memory.wf s.mem = true) (a : Word32) :
    s.Pushes (s.pushPc.jump a) s.pcSize (s.pc.setWidth _) noReg ∧
      (s.pushPc.jump a).xsp = s.xsp - byteCount s.pcSize ∧ (s.pushPc.jump a).pc = s.pcOf a ∧
      (s.pushPc.jump a).f = s.f :=
  ⟨pushes_pushPc_jump hwf 0 a (.refl _), xsp_pushPc s, pc_pushPc_jump s 0 a, by simp⟩

/-- CALL of an effective address whose mode leaves XSP alone. -/
theorem callMem_beside (he : s.eff m = .next e) (hwf : Memory.wf s.mem = true)
    (hx : ¬ e.stepsReg (.fixed .xsp)) :
    let t := s.addressOnly e fun u => u.pushPc.jump e.addr
    s.Pushes t s.pcSize (s.pc.setWidth _) e.stepsReg ∧ t.xsp = s.xsp - byteCount s.pcSize ∧
      t.pc = s.pcOf e.addr ∧ t.f = s.f ∧
      (s.SteppedTo t e ∨ ∀ p, e.stepsReg p → t.reg p = s.reg p) := by
  intro t
  have away {p : PReg} (hp : e.stepsReg p) : p ≠ .fixed .xsp := fun h => hx (h ▸ hp)
  rcases addressOnly_eq s e fun u => u.pushPc.jump e.addr with ⟨n, ht⟩ | ⟨n, ht⟩
  · have hk : s.Kept ((s.drawn n).pushPc.jump e.addr) (fun p => p = .fixed .xsp) (fun _ => True) :=
      ((kept_drawn s n).trans ((kept_pushPc _).mono (fun _ => id) fun _ _ => trivial)).trans
        (kept_jump _ _)
    rw [show t = _ from ht]
    exact ⟨pushes_pushPc_jump hwf n _ (.refl _), xsp_pushPc (s.drawn n), pc_pushPc_jump s n _,
      by simp, .inr fun p hp => hk.registers p (away hp)⟩
  · have hpx : (s.preStep e).xsp = s.xsp := (kept_preStep s e).registers (.fixed .xsp) hx
    have hsize : (s.preStep e).pcSize = s.pcSize := by simp [State.pcSize]
    have hp := pushes_pushPc_jump (s := s.preStep e) (by simpa using hwf) n e.addr
      (kept_postStep _ e)
    rw [hsize, preStep_pc] at hp
    have hk : (s.preStep e).Kept (((s.preStep e).drawn n).pushPc.jump e.addr)
        (fun p => p = .fixed .xsp) (fun _ => True) :=
      ((kept_drawn _ n).trans ((kept_pushPc _).mono (fun _ => id) fun _ _ => trivial)).trans
        (kept_jump _ _)
    rw [show t = _ from ht]
    refine ⟨hp.of_kept (kept_preStep s e) hpx, ?_, ?_, by simp,
      .inl (steppedTo_of he fun p hp => hk.registers p (away hp))⟩
    · rw [postStep_xsp_of_not_steps _ hx, ← hpx, ← hsize]
      exact xsp_pushPc ((s.preStep e).drawn n)
    · rw [postStep_pc, pc_pushPc_jump]
      simp [State.pcOf]

/-- CALL of an effective address whose mode steps XSP. -/
theorem callMem_through_xsp (he : s.eff m = .next e) (hwf : Memory.wf s.mem = true)
    (hx : e.stepsReg (.fixed .xsp)) :
    let t := s.addressOnly e fun u => u.pushPc.jump e.addr
    ∃ u, (u = s ∧ t.xsp = u.xsp - byteCount s.pcSize ∨
        u = s.preStep e ∧ t.xsp = u.xsp - byteCount s.pcSize + e.increment) ∧
      u.Pushes t s.pcSize (s.pc.setWidth _) noReg ∧ t.pc = s.pcOf e.addr ∧ t.f = s.f := by
  intro t
  rcases addressOnly_eq s e fun u => u.pushPc.jump e.addr with ⟨n, ht⟩ | ⟨n, ht⟩
  · rw [show t = _ from ht]
    exact ⟨s, .inl ⟨rfl, xsp_pushPc (s.drawn n)⟩, pushes_pushPc_jump hwf n _ (.refl _),
      pc_pushPc_jump s n _, by simp⟩
  · have hsize : (s.preStep e).pcSize = s.pcSize := by simp [State.pcSize]
    have only (p : PReg) (hp : e.stepsReg p) : p = .fixed .xsp := by
      obtain ⟨r, hr, rfl⟩ := hp
      obtain ⟨q, hq, hqx⟩ := hx
      rwa [Option.some_inj.mp (hr.symm.trans hq)]
    have hp := pushes_pushPc_jump (s := s.preStep e) (by simpa using hwf) n e.addr
      (kept_postStep _ e)
    rw [hsize, preStep_pc] at hp
    rw [show t = _ from ht]
    refine ⟨s.preStep e, .inr ⟨rfl, ?_⟩, ⟨hp.stored, hp.kept.mono ?_ fun _ h => h⟩, ?_, by simp⟩
    · rw [postStep_xsp_of_steps _ he hx, ← hsize]
      exact congrArg (· + e.increment) (xsp_pushPc ((s.preStep e).drawn n))
    · exact fun p hp => .inl (hp.elim id (only p))
    · rw [postStep_pc, pc_pushPc_jump]
      simp [State.pcOf]

/-- The pc from the stack at the width of the mode. -/
theorem popPc_eq (s : State) : s.popPc = { s with
    pc := if s.max then s.memRead .L s.xsp else (s.memRead .W s.xsp).setWidth 32
    xsp := s.xsp + if s.max then 4 else 2 } := by
  by_cases hm : s.max = true
  · have hpc : (s.popped .L).pcOf ((s.top .L).setWidth 32) = s.memRead .L s.xsp :=
      (if_pos hm).trans (BitVec.setWidth_eq _)
    rw [State.popPc, show s.pcSize = .L from if_pos hm, if_pos hm, if_pos hm, ← hpc]
    rfl
  · have hpc : (s.popped .W).pcOf ((s.top .W).setWidth 32) = (s.memRead .W s.xsp).setWidth 32 :=
      pcOf_setWidth16 (s.popped .W) _
    rw [State.popPc, show s.pcSize = .W from if_neg hm, if_neg hm, if_neg hm, ← hpc]
    rfl

end

/-- Settles O53. -/
theorem callAndReturnForms : Obligations.CallAndReturnForms := by
  intro s hwf
  refine ⟨rfl, fun a => ⟨_, rfl, calls hwf _⟩, fun a => ⟨_, rfl, calls hwf _⟩,
    fun d => ⟨_, rfl, calls hwf _⟩, fun cc m e he hs => ?callm, ?ret, fun d => ?retd,
    fun cc => ?retcc⟩
  case callm =>
    rw [show exec (.callm cc m) s = callMem cc m s from rfl, callMem_eq he hs]
    refine ⟨fun hc => by rw [hc]; rfl, fun hc hx => ?_, fun hc hx => ?_⟩
    · rw [hc, if_pos rfl]
      exact ⟨_, rfl, callMem_beside he hwf hx⟩
    · rw [hc, if_pos rfl]
      obtain ⟨u, hu⟩ := callMem_through_xsp he hwf hx
      exact ⟨_, u, rfl, hu⟩
  case ret => exact congrArg Host.Outcome.next (popPc_eq s)
  case retd =>
    rw [show exec (.retd d) s = .next { s.popPc with xsp := s.popPc.xsp + d.signExtend 32 } from
      rfl, popPc_eq]
  case retcc =>
    rw [show exec (.retcc cc) s = .next (if s.f.holds cc then s.popPc else s) from rfl, popPc_eq]

end Sys2Proof.Machine
end

section
/-!
SUPPORT. The loads of control registers, the change of the mode, and the loads of SR.
-/

namespace Sys2Proof.Machine

/-! ## LDC -/

section

variable {s : State} {sz : Size} {code : BitVec 8} {c : CReg}

/-- A value of the width of a control register is not cut. -/
theorem crFit_setWidth (hw : s.crWidth c = sz) (v : BitVec sz.bits) :
    s.crFit c (v.setWidth 32) = v.setWidth 32 := by
  subst hw
  have h32 : (s.crWidth c).bits ≤ 32 := by cases s.crWidth c <;> decide
  rw [State.crFit, BitVec.setWidth_setWidth_of_le _ h32, BitVec.setWidth_eq]

theorem setCreg_eq (s : State) (c : CReg) (v : Word32) : s.setCreg c v = { s with
    dmas := (s.setCreg c v).dmas
    dmad := (s.setCreg c v).dmad
    dmac := (s.setCreg c v).dmac
    dmam := (s.setCreg c v).dmam
    intnest := (s.setCreg c v).intnest } := by
  cases c <;> rfl

end

/-- Settles O55. -/
theorem controlRegisterLoads : Obligations.ControlRegisterLoads := by
  intro s sz code r c d hl hw hd
  have hc := crOf_of_lookup hl hw
  refine ⟨⟨s.setCreg c ((s.slot sz d).setWidth 32), ?_, ?_, fun c' hc' => ?_, setCreg_eq s c _⟩,
    ⟨s.setSlot sz d ((s.creg c).setWidth _), ?_, setsReg_setSlot (regSlot_fits hd), by simp⟩⟩
  · rw [exec, execLdcCr, loadControl, hc, andThen_next, hd, andThen_next]
  · rw [creg_setCreg_same, crFit_setWidth hw]
  · exact creg_setCreg_other s c c' _ hc'
  · rw [exec, execLdcR, storeControl, hc, andThen_next, hd, andThen_next]

/-! ## The change of the mode -/

section

variable {s : State} {b : Bool}

theorem changeMode_same (h : b = s.max) : s.changeMode b = s := if_pos h

/-- Where the mode changes, bits 31:16 of the pc become 0 (R17). -/
theorem changeMode_pc_of_ne (h : b ≠ s.max) :
    (s.changeMode b).pc = (s.pc.setWidth 16).setWidth 32 := by
  unfold State.changeMode
  rw [if_neg h]
  split <;> rfl

theorem changeMode_rfp_false (s : State) : (s.changeMode false).rfp = s.rfp := by
  unfold State.changeMode
  split <;> rfl

theorem Four.get_zip {α β γ : Type} (g : α → β → γ) (a : Four α) (b : Four β) (i : BitVec 2) :
    (Four.zip g a b).get i = g (a.get i) (b.get i) := by
  unfold Four.get Four.zip
  split <;> rfl

theorem Bank.get_zip {u v w : Nat} (g : BitVec u → BitVec v → BitVec w) (a : Bank u) (b : Bank v)
    (k : BankedReg) : (Bank.zip g a b).get k = g (a.get k) (b.get k) := by
  cases k <;> rfl

/-- To maximum mode the low halves of banks 0 to 3 are kept. -/
theorem changeMode_low_half (hm : s.max = false) {n : BitVec 3} {k : BankedReg} {i : Nat}
    (hn : n.toNat < 4) (hi : i < 16) :
    ((s.changeMode true).reg (.bank n k)).getLsbD i = (s.reg (.bank n k)).getLsbD i := by
  have hne : ¬ true = s.max := by simp [hm]
  rw [State.changeMode, if_neg hne, if_pos rfl]
  simp only [State.reg, if_pos hn, Four.get_zip, Bank.get_zip]
  rw [BitVec.getLsbD_append, if_pos hi, BitVec.getLsbD_setWidth, decide_eq_true hi, Bool.true_and]

end

/-- Settles O56. -/
theorem minimumModeEntry : Obligations.MinimumModeEntry := by
  intro s hav
  have hx : exec .min s = .next (s.changeMode false) := if_pos (by simp [hav])
  refine ⟨_, hx, by simp, fun hm => changeMode_pc_of_ne (by simp [hm]),
    fun hm => changeMode_same hm.symm, fun j => ?_, by simp, changeMode_rfp_false s, by simp,
    by simp, by simp, by simp, by simp, by simp, by simp, by simp, by simp, by simp, by simp,
    by simp⟩
  cases j <;> simp [State.reg]

/-! ## The loads of SR -/

/-- The state that a load of SR leaves. -/
def State.withSr (s : State) (v : BitVec 16) : State :=
  { s.changeMode (v.getLsbD 11) with
    iff := v.extractLsb' 12 3
    rfp := rfpIn (v.getLsbD 11) (v.extractLsb' 8 3)
    f := Flags.ofByte (v.setWidth 8) }

theorem setSr_of_available {s : State} {v : BitVec 16}
    (h : v.getLsbD 11 = true ∨ s.product.minModeAvailable = true) :
    s.setSr v = .next (s.withSr v) := by
  have hmax : s.setMax (v.getLsbD 11) = .next (s.changeMode (v.getLsbD 11)) :=
    if_pos (by simpa using h)
  rw [State.setSr, hmax, andThen_next]
  simp only [State.withSr, changeMode_max]

theorem withSr_pc (s : State) (v : BitVec 16) :
    (s.withSr v).pc = if v.getLsbD 11 = s.max then s.pc else (s.pc.setWidth 16).setWidth 32 := by
  rw [show (s.withSr v).pc = (s.changeMode (v.getLsbD 11)).pc from rfl]
  split
  · rw [changeMode_same ‹_›]
  · exact changeMode_pc_of_ne ‹_›

/-- Where the mode does not change, the banks are kept. -/
theorem withSr_banks {s : State} {v : BitVec 16} (h : v.getLsbD 11 = s.max) :
    (s.withSr v).banks = s.banks ∧ (s.withSr v).minBanks = s.minBanks := by
  rw [show (s.withSr v).banks = (s.changeMode (v.getLsbD 11)).banks from rfl,
    show (s.withSr v).minBanks = (s.changeMode (v.getLsbD 11)).minBanks from rfl,
    changeMode_same h]
  exact ⟨rfl, rfl⟩

/-- To maximum mode the low halves of banks 0 to 3 are kept. -/
theorem withSr_low_half {s : State} {v : BitVec 16} (hv : v.getLsbD 11 = true)
    (hm : s.max = false) {n : BitVec 3} {k : BankedReg} {i : Nat} (hn : n.toNat < 4)
    (hi : i < 16) : ((s.withSr v).reg (.bank n k)).getLsbD i =
      (s.reg (.bank n k)).getLsbD i := by
  rw [← changeMode_low_half hm hn hi, ← hv]
  exact congrArg (BitVec.getLsbD · i) (reg_congr rfl rfl rfl rfl rfl rfl _)

theorem withSr_intnest (s : State) (v : BitVec 16) : (s.withSr v).intnest = s.intnest :=
  changeMode_intnest _ _

theorem withSr_product (s : State) (v : BitVec 16) : (s.withSr v).product = s.product :=
  changeMode_product _ _

/-- A load of SR keeps INTNEST. -/
theorem withSr_intnest_self (s : State) (v : BitVec 16) :
    ({ s.withSr v with intnest := s.intnest } : State) = s.withSr v := by
  have h : ({ s.withSr v with intnest := (s.withSr v).intnest } : State) = s.withSr v := rfl
  rwa [withSr_intnest] at h

/-- The two pops of RETI. -/
theorem popped_popPc_eq (s : State) : (s.popped .W).popPc = { s with
    pc := s.pcOf ((s.memRead s.pcSize (s.xsp + 2)).setWidth 32)
    xsp := s.xsp + 2 + byteCount s.pcSize } := by
  have htop : s.memRead s.pcSize (s.xsp + 2) = (s.popped .W).top s.pcSize :=
    (memRead_congr rfl rfl rfl _ _).symm
  rw [htop]
  rfl

/-- RETI is a load of SR over the state after both pops, and INTNEST goes down by 1. -/
theorem returnFromException_of_available {s : State}
    (h : (s.top .W).getLsbD 11 = true ∨ s.product.minModeAvailable = true) :
    s.returnFromException = .next { (s.popped .W).popPc.withSr (s.top .W) with
      intnest := s.crFit .intnest (s.intnest - 1) } := by
  rw [State.returnFromException, setSr_of_available (s := (s.popped .W).popPc) h, andThen_next,
    withSr_intnest, crFit_congr (t := (s.popped .W).popPc.withSr (s.top .W)) (s := s)
      (withSr_product _ _)]
  rfl

/-- Settles O57: both load SR over a state that differs from `s` in the pc and XSP. -/
theorem statusRegisterIsRestored : Obligations.StatusRegisterIsRestored := by
  intro s x m restored hav
  have load (pc xsp nest : Word32) :
      restored { ({ s with pc := pc, xsp := xsp } : State).withSr x with intnest := nest }
        pc xsp nest := by
    refine ⟨changeMode_xsp _ _, changeMode_max _ _, rfl, rfl, rfl, withSr_pc _ x, rfl,
      changeMode_xix _ _, changeMode_xiy _ _, changeMode_xiz _ _, changeMode_fAlt _ _,
      changeMode_dmas _ _, changeMode_dmad _ _, changeMode_dmac _ _, changeMode_dmam _ _,
      changeMode_halted _ _, changeMode_repeating _ _, changeMode_mem _ _,
      changeMode_offers _ _, changeMode_product _ _, fun hm => withSr_banks hm,
      fun hm hs n k i hn hi => ?_⟩
    exact withSr_low_half (s := { s with pc := pc, xsp := xsp }) hm hs hn hi
  refine ⟨⟨_, setSr_of_available (s := s.popped .W) hav, ?popSR⟩,
    ⟨_, returnFromException_of_available hav, ?reti⟩⟩
  case popSR =>
    have h := load s.pc (s.xsp + 2) s.intnest
    rwa [withSr_intnest_self { s with pc := s.pc, xsp := s.xsp + 2 } x] at h
  case reti =>
    rw [popped_popPc_eq]
    exact load _ _ _

end Sys2Proof.Machine
end

section
/-!
SUPPORT. The effective addresses of the modes: which address register a register code names, and
what it supplies.
-/

namespace Sys2Proof.Machine

section

variable {s : State} {R : BitVec 3} {d : Slot} {r : AddrReg}

/-! ## Address registers -/

/-- A part of 32 bits is a whole register, and as an address it supplies all of them. -/
theorem addrRegAt_of_long {x : RegDesig} (h : s.resolve .L x = .next d) :
    x.off = 0 ∧ s.addrRegAt x.base = ⟨d.reg, false⟩ ∧
      s.addrValue (s.addrRegAt x.base) = s.slot .L d := by
  obtain ⟨rfl, hfit⟩ := resolve_eq_next h
  have h4 : Size.L.bytes = 4 := rfl
  have hoff : x.off = 0 := BitVec.eq_of_toNat_eq (show x.off.toNat = 0 by omega)
  have hreg : s.addrRegAt x.base = ⟨s.place x.base, false⟩ := by
    obtain ⟨base, off⟩ := x
    rcases hfit with hfit | ⟨hmax | ⟨j, rfl⟩, -⟩
    · omega
    · cases base with
      | fixed j => rfl
      | cur k | prev k | abs n k => simp [State.addrRegAt, hmax]
    · rfl
  have hslot : s.slot .L ⟨s.place x.base, x.off⟩ = s.reg (s.place x.base) := by
    rw [hoff]
    exact BitVec.extractLsb'_eq_self
  exact ⟨hoff, hreg, by rw [hslot, hreg]; rfl⟩

theorem addrValue_short_long (h : s.shortSlot .L R = .next d) :
    s.addrValue (s.shortAddrReg R) = s.slot .L d :=
  (addrRegAt_of_long h).2.2

/-- A banked register of minimum mode supplies its 16 bits (R18). -/
theorem addrValue_short_narrow (hm : s.max = false) (hR : R.toNat < 4)
    (h : s.shortSlot .W R = .next d) :
    s.addrValue (s.shortAddrReg R) = (s.slot .W d).setWidth 32 := by
  have hdesig : ∀ R : BitVec 3, R.toNat < 4 →
      shortDesig .W R = shortDesig .L R ∧ ∃ k, shortDesig .L R = ⟨.cur k, 0⟩ := by
    intro R
    match R with
    | 0 => exact fun _ => ⟨rfl, .xwa, rfl⟩
    | 1 => exact fun _ => ⟨rfl, .xbc, rfl⟩
    | 2 => exact fun _ => ⟨rfl, .xde, rfl⟩
    | 3 => exact fun _ => ⟨rfl, .xhl, rfl⟩
    | 4 | 5 | 6 | 7 => exact fun h => absurd h (by decide)
  obtain ⟨hW, k, hL⟩ := hdesig R hR
  obtain ⟨rfl, -⟩ := resolve_eq_next h
  have hreg : s.shortAddrReg R = ⟨s.place (.cur k), true⟩ := by
    simp [State.shortAddrReg, hL, State.addrRegAt, hm]
  rw [hreg, hW, hL]
  exact congrArg (BitVec.setWidth 32) (setWidth_of_slot s ⟨s.place (.cur k), true⟩)

/-! ## Register codes -/

theorem codeAddrReg_of_map {code : BitVec 8} {b : RegBase} (h : s.regMap code = some ⟨b, 0⟩) :
    s.codeAddrReg code = .next (s.addrRegAt b) := by
  simp [State.codeAddrReg, h]

/-- A register code of 32 bits names the same register as an address. -/
theorem codeAddrReg_of_long {code : BitVec 8} (h : s.codeSlot .L code = .next d) :
    s.codeAddrReg code = .next ⟨d.reg, false⟩ ∧ s.addrValue ⟨d.reg, false⟩ = s.slot .L d := by
  obtain ⟨⟨b, off⟩, hmap, hres⟩ := codeSlot_eq_next h
  obtain ⟨rfl, hreg, hval⟩ := addrRegAt_of_long hres
  rw [codeAddrReg_of_map hmap, ← hval, hreg]
  exact ⟨rfl, rfl⟩

/-- The register that a code of minimum mode names, and what it supplies (R67). -/
def State.supplies (s : State) (code : BitVec 8) (r : AddrReg) (v : Word32) : Prop :=
  (∃ j, s.regMap code = some ⟨.fixed j, 0⟩ ∧ r = ⟨.fixed j, false⟩ ∧ v = s.reg (.fixed j)) ∨
    ∃ b, s.regMap code = some ⟨b, 0⟩ ∧ (∀ j, b ≠ .fixed j) ∧ r = ⟨s.place b, true⟩ ∧
      v = ((s.reg (s.place b)).setWidth 16).setWidth 32

theorem codeAddrReg_of_supplies (hm : s.max = false) {code : BitVec 8} {v : Word32}
    (h : s.supplies code r v) : s.codeAddrReg code = .next r ∧ s.addrValue r = v := by
  rcases h with ⟨j, hmap, rfl, rfl⟩ | ⟨b, hmap, hb, rfl, rfl⟩
  · exact ⟨codeAddrReg_of_map hmap, rfl⟩
  · refine ⟨?_, rfl⟩
    rw [codeAddrReg_of_map hmap]
    cases b with
    | fixed j => exact absurd rfl (hb j)
    | cur k | prev k | abs n k => simp [State.addrRegAt, hm]

/-! ## The modes over an address register -/

/-- The four modes of an `r32` field. -/
theorem eff_of_field {r32 : BitVec 6} {v : Word32} (h : s.codeAddrReg (r32 ++ 0#2) = .next r)
    (hv : s.addrValue r = v) (x : BitVec 16) (st : Step) :
    s.eff (.indExt r32) = .next ⟨v, .none⟩ ∧
      s.eff (.disp16 r32 x) = .next ⟨v + x.signExtend 32, .none⟩ ∧
      s.eff (.preDec r32 st) = .next ⟨r.trunc (v - stepBytes st), .pre r⟩ ∧
      s.eff (.postInc r32 st) = .next ⟨v, .post r (stepBytes st)⟩ := by
  simp [State.eff, fullCode, h, hv]

/-- The two modes of a base and an index. -/
theorem eff_of_index {base idx : BitVec 8} {v : Word32} {i : Slot}
    (h : s.codeAddrReg base = .next r) (hv : s.addrValue r = v) :
    (s.codeSlot .B idx = .next i →
      s.eff (.index8 base idx) = .next ⟨v + (s.slot .B i).signExtend 32, .none⟩) ∧
    (s.codeSlot .W idx = .next i →
      s.eff (.index16 base idx) = .next ⟨v + (s.slot .W i).signExtend 32, .none⟩) := by
  refine ⟨fun hi => ?_, fun hi => ?_⟩
  · simp [State.eff, h, hv, hi]
  · simp [State.eff, h, hv, hi]

end

/-- Settles O17. -/
theorem effectiveAddressesOfTheModes : Obligations.EffectiveAddressesOfTheModes := by
  intro s
  refine ⟨fun R d x hd => ?short, fun R d x hm hR hd => ?narrow, fun a => rfl, fun a => rfl,
    fun a => rfl, fun r32 d x st _ hd => ?field, fun base idx d i _ hd => ?index,
    fun hm => ⟨fun code => if_neg (by simp [hm]), fun r32 r v x st hv => ?fieldMin,
      fun base idx r v i hv => ?indexMin⟩⟩
  case short => simp [State.eff, addrValue_short_long hd]
  case narrow => simp [State.eff, addrValue_short_narrow hm hR hd]
  case field =>
    obtain ⟨hr, hv⟩ := codeAddrReg_of_long hd
    exact eff_of_field hr hv x st
  case index =>
    obtain ⟨hr, hv⟩ := codeAddrReg_of_long hd
    exact eff_of_index hr hv
  case fieldMin =>
    obtain ⟨hr, hv⟩ := codeAddrReg_of_supplies hm hv
    exact eff_of_field hr hv x st
  case indexMin =>
    obtain ⟨hr, hv⟩ := codeAddrReg_of_supplies hm hv
    exact eff_of_index hr hv

end Sys2Proof.Machine
end

section
/-!
SUPPORT. The block instructions: what one element does to the pointers, BC and memory, and what
its end or its repetition adds (43_block.md R115 to R122).
-/

namespace Sys2Proof.Machine

/-! ## The pointers and the counter -/

section

variable {s u t : State} {r : AddrReg} {k : Word32}

/-- A pointer that `u` has as `s` has it, and that nothing writes after its step. -/
theorem movedBy_of_step (hf : r.fits) (hu : u.reg r.reg = s.reg r.reg)
    (ht : t.reg r.reg = (u.stepAddrReg r k).reg r.reg) : s.MovedBy t r k := by
  refine ⟨?_, fun hn i hi => ?_⟩
  · rw [addrValue_congr ht, State.stepAddrReg, addrValue_setAddrReg _ _ _ hf, addrValue_congr hu]
  · rw [ht, State.stepAddrReg, setAddrReg_upper _ _ _ hn _ hi, hu]

theorem State.MovedBy.of_reg (h : s.MovedBy u r k) (ht : t.reg r.reg = u.reg r.reg) :
    s.MovedBy t r k :=
  ⟨(addrValue_congr ht).trans h.1, fun hn i hi => by rw [ht, h.2 hn i hi]⟩

theorem curSlot_congr (hm : u.max = s.max) (hr : u.rfp = s.rfp) (k : BankedReg) :
    u.curSlot k = s.curSlot k := by
  simp only [State.curSlot, State.curBank, hm, hr]

theorem regBC_congr (hm : u.max = s.max) (hr : u.rfp = s.rfp)
    (hb : u.reg (s.curSlot .xbc).reg = s.reg (s.curSlot .xbc).reg) : u.regBC = s.regBC := by
  rw [State.regBC, curSlot_congr hm hr]
  exact slot_congr hb .W

theorem kept_countDown (s : State) :
    s.Kept s.countDown (fun p => p = (s.curSlot .xbc).reg) nowhere :=
  kept_setSlot s .W (s.curSlot .xbc) (s.regBC - 1)

theorem curSlot_fits_word (s : State) (k : BankedReg) : (s.curSlot k).fits .W :=
  (AddrReg.half_fits ⟨(s.curSlot k).reg, true⟩ : _)

/-- BC counts down within its 16 bits. -/
theorem countDown_wrote (s : State) :
    s.Wrote s.countDown .W (s.curSlot .xbc) (s.regBC - 1) ∧ s.countDown.regBC = s.regBC - 1 := by
  have hw := wrote_setSlot s .W (s.curSlot .xbc) (s.regBC - 1) (curSlot_fits_word s .xbc)
  refine ⟨hw, ?_⟩
  rw [State.regBC, curSlot_congr (u := s.countDown) (kept_countDown s).max (kept_countDown s).rfp]
  exact hw.value

/-- The same, over a state that has the counter and the bank of `s`. -/
theorem countDown_wrote_of (hm : u.max = s.max) (hr : u.rfp = s.rfp)
    (hb : u.reg (s.curSlot .xbc).reg = s.reg (s.curSlot .xbc).reg) :
    s.Wrote u.countDown .W (s.curSlot .xbc) (s.regBC - 1) ∧ u.countDown.regBC = s.regBC - 1 := by
  obtain ⟨hw, hc⟩ := countDown_wrote u
  rw [curSlot_congr hm hr, regBC_congr hm hr hb] at hw
  rw [regBC_congr hm hr hb] at hc
  exact ⟨⟨hw.value, fun i hi => (hw.rest i hi).trans (by rw [hb])⟩, hc⟩

end

/-! ## The end of an element -/

/-- What comes after an element changes no register, no byte and no control but the block
instruction under way. -/
def State.Closes (u t : State) : Prop :=
  u.Kept { t with repeating := u.repeating } noReg nowhere

theorem State.Closes.reg {u t : State} (h : u.Closes t) (p : PReg) : t.reg p = u.reg p :=
  (reg_congr rfl rfl rfl rfl rfl rfl p).trans (h.registers p id)

theorem State.Closes.regBC {u t : State} (h : u.Closes t) : t.regBC = u.regBC :=
  regBC_congr h.max h.rfp (h.reg _)

/-- A frame goes on over what comes after an element. -/
theorem State.Closes.kept {s u t : State} {regs bytes} (h : u.Closes t)
    (hk : s.Kept u regs bytes) : s.Kept { t with repeating := s.repeating } regs bytes := by
  have hall := hk.trans (h.mono (fun _ q => q.elim) fun _ q => q.elim)
  rw [hk.repeating] at hall
  exact hall

theorem closes_withFlags (u : State) (g : Flags) : u.Closes { u with f := g } :=
  kept_withFlags u g

theorem closes_again (u : State) (i : Repeating) : u.Closes (u.again i) :=
  kept_jump u _

theorem again_pc_of {s u : State} (hm : u.max = s.max) (hp : u.pc = s.pc) (i : Repeating) :
    (u.again i).pc = s.pcOf (s.pc - 2) := by
  rw [← hp]
  exact pcOf_congr hm _

/-! ## One element of a block load -/

/-- What `BlockLoadForms` says of the transfer, the pointers and BC. -/
structure State.LoadsElement (s t : State) (sz : Size) (D S : AddrReg) (k : Word32) : Prop where
  stored : s.Stored t sz (s.addrValue D) (s.memRead sz (s.addrValue S))
  target : s.MovedBy t D k
  source : s.MovedBy t S k
  count : t.regBC = s.regBC - 1
  counter : s.Wrote t .W (s.curSlot .xbc) (s.regBC - 1)
  kept : s.Kept { t with repeating := s.repeating }
    (fun p => p = D.reg ∨ p = S.reg ∨ p = (s.curSlot .xbc).reg) (touches sz (s.addrValue D))

theorem State.LoadsElement.closes {s u t : State} {sz : Size} {D S : AddrReg} {k : Word32}
    (h : s.LoadsElement u sz D S k) (hc : u.Closes t) (hu : u.repeating = s.repeating) :
    s.LoadsElement t sz D S k where
  stored := h.stored.of_cells (fun _ => rfl) rfl fun x => hc.memory x id
  target := h.target.of_reg (hc.reg _)
  source := h.source.of_reg (hc.reg _)
  count := hc.regBC.trans h.count
  counter := h.counter.of_reg (hc.reg _)
  kept := by
    have hk := h.kept
    rw [← hu] at hk
    exact hc.kept hk

/-- The element: the transfer, then both pointers, then BC. -/
theorem loadsElement_of {s : State} {sz : Size} {D S : AddrReg} (hwf : Memory.wf s.mem = true)
    (hD : D.fits) (hS : S.fits) (hne : D.reg ≠ S.reg) (hDc : D.reg ≠ (s.curSlot .xbc).reg)
    (hSc : S.reg ≠ (s.curSlot .xbc).reg) (k : Word32) :
    s.LoadsElement ((((s.memWrite sz (s.addrValue D) (s.memRead sz (s.addrValue S))).stepAddrReg
      D k).stepAddrReg S k).countDown) sz D S k := by
  set u := s.memWrite sz (s.addrValue D) (s.memRead sz (s.addrValue S))
  have hu : s.Kept u noReg (touches sz (s.addrValue D)) := kept_memWrite s sz _ _
  have hd := kept_stepAddrReg u D k
  have hs := kept_stepAddrReg (u.stepAddrReg D k) S k
  have hc := kept_countDown ((u.stepAddrReg D k).stepAddrReg S k)
  have hcur : ((u.stepAddrReg D k).stepAddrReg S k).curSlot .xbc = s.curSlot .xbc :=
    curSlot_congr (hs.max.trans (hd.max.trans hu.max)) (hs.rfp.trans (hd.rfp.trans hu.rfp)) _
  rw [hcur] at hc
  have hcount := countDown_wrote_of (s := s) (hs.max.trans (hd.max.trans hu.max))
    (hs.rfp.trans (hd.rfp.trans hu.rfp)) ((hs.registers _ hSc.symm).trans
      ((hd.registers _ hDc.symm).trans (hu.registers _ id)))
  exact {
    stored := (stored_memWrite s sz _ _ hwf).of_cells (fun _ => rfl) rfl fun x =>
      (hc.memory x id).trans ((hs.memory x id).trans (hd.memory x id))
    target := movedBy_of_step hD (hu.registers _ id)
      ((hc.registers _ hDc).trans (hs.registers _ hne))
    source := movedBy_of_step hS ((hd.registers _ hne.symm).trans (hu.registers _ id))
      (hc.registers _ hSc)
    count := hcount.2
    counter := hcount.1
    kept := by
      have hk := ((hu.mono (regs' := fun p => p = D.reg ∨ p = S.reg ∨ p = (s.curSlot .xbc).reg)
        (fun _ q => q.elim) fun _ => id).trans (((hd.widen fun _ => .inl).trans
        (hs.widen fun _ h => .inr (.inl h))).trans (hc.widen fun _ h => .inr (.inr h))))
      exact { hk with
        registers := fun p hp => (reg_congr rfl rfl rfl rfl rfl rfl p).trans (hk.registers p hp)
        repeating := rfl } }

/-- The pointers of a pair are two registers, and neither is XBC (R115). -/
theorem blockElement_loadsElement {s : State} (hwf : Memory.wf s.mem = true) (sz : Size)
    (p : BlockPair) (k : Word32) :
    s.LoadsElement (s.blockElement sz p k) sz (s.blockDst p) (s.blockSrc p) k := by
  cases p with
  | deHl | ixIy =>
    exact loadsElement_of hwf (shortAddrReg_fits s _) (shortAddrReg_fits s _) (by nofun) (by nofun)
      (by nofun) k

/-- An element writes neither F nor the pc. -/
theorem blockElement_keeps (s : State) (sz : Size) (p : BlockPair) (k : Word32) :
    (s.blockElement sz p k).f = s.f ∧ (s.blockElement sz p k).pc = s.pc ∧
      (s.blockElement sz p k).max = s.max ∧ (s.blockElement sz p k).repeating = s.repeating := by
  simp [State.blockElement, State.countDown]

/-- The flags at the end of a block load (R115 to R118). -/
theorem blockFlags_f {s u : State} (hf : u.f = s.f) :
    u.blockFlags.f = { s.f with h := false, n := false, v := decide (u.blockFlags.regBC ≠ 0) } := by
  rw [← hf]
  rfl

/-- LDI and LDD. -/
theorem blockLoad_loads {s : State} (hwf : Memory.wf s.mem = true) (sz : Size) (p : BlockPair)
    (k : Word32) :
    s.LoadsElement (blockLoad sz p k s) sz (s.blockDst p) (s.blockSrc p) k ∧
      (blockLoad sz p k s).f =
        { s.f with h := false, n := false, v := decide ((blockLoad sz p k s).regBC ≠ 0) } ∧
      (blockLoad sz p k s).pc = s.pc ∧ (blockLoad sz p k s).repeating = s.repeating := by
  obtain ⟨hf, hpc, -, hr⟩ := blockElement_keeps s sz p k
  exact ⟨(blockElement_loadsElement hwf sz p k).closes (closes_withFlags _ _) hr, blockFlags_f hf,
    hpc, hr⟩

/-- One element of LDIR and LDDR. -/
theorem blockLoadRepeat_loads {s : State} (hwf : Memory.wf s.mem = true) (i : Repeating)
    (sz : Size) (p : BlockPair) (k : Word32) :
    let t := blockLoadRepeat i sz p k s
    s.LoadsElement t sz (s.blockDst p) (s.blockSrc p) k ∧
      (s.regBC = 1 →
        t.f = { s.f with h := false, n := false, v := decide (t.regBC ≠ 0) } ∧ t.pc = s.pc ∧
          t.repeating = s.repeating) ∧
      (s.regBC ≠ 1 → t.f = s.f ∧ t.pc = s.pcOf (s.pc - 2) ∧ t.repeating = some i) := by
  intro t
  have hload := blockElement_loadsElement hwf sz p k
  have hend : (s.blockElement sz p k).regBC = 0 ↔ s.regBC = 1 := by
    rw [hload.count, sub_eq_zero]
  by_cases h : s.regBC = 1
  · have ht : t = blockLoad sz p k s := if_pos (hend.mpr h)
    rw [ht]
    obtain ⟨helement, hf, hpc, hr⟩ := blockLoad_loads hwf sz p k
    exact ⟨helement, fun _ => ⟨hf, hpc, hr⟩, fun hne => absurd h hne⟩
  · have ht : t = (s.blockElement sz p k).again i := if_neg fun hz => h (hend.mp hz)
    obtain ⟨hf, hpc, hm, hr⟩ := blockElement_keeps s sz p k
    rw [ht]
    exact ⟨hload.closes (closes_again _ i) hr, fun he => absurd he h,
      fun _ => ⟨hf, again_pc_of hm hpc i, rfl⟩⟩

/-- Settles O50. -/
theorem blockLoadForms : Obligations.BlockLoadForms := by
  intro s sz p hwf codes D S moved ended
  have hmoved {t : State} {k : Word32}
      (h : s.LoadsElement t sz (s.blockDst p) (s.blockSrc p) k) : moved t k := by
    cases p with
    | deHl | ixIy => exact ⟨h.stored, h.target, h.source, h.count, h.counter, h.kept⟩
  have once (k : Word32) : let t := blockLoad sz p k s
      moved t k ∧ t.f = ended t ∧ t.pc = s.pc ∧ t.repeating = s.repeating :=
    have h := blockLoad_loads hwf sz p k
    ⟨hmoved h.1, h.2⟩
  have again (i : Repeating) (k : Word32) : let t := blockLoadRepeat i sz p k s
      moved t k ∧ (s.regBC = 1 → t.f = ended t ∧ t.pc = s.pc ∧ t.repeating = s.repeating) ∧
        (s.regBC ≠ 1 → t.f = s.f ∧ t.pc = s.pcOf (s.pc - 2) ∧ t.repeating = some i) :=
    have h := blockLoadRepeat_loads hwf i sz p k
    ⟨hmoved h.1, h.2⟩
  simp only [List.forall_mem_cons, List.not_mem_nil, false_imp_iff, implies_true, and_true]
  exact ⟨⟨⟨_, rfl, once _⟩, ⟨_, rfl, once _⟩⟩, ⟨⟨_, rfl, again _ _⟩, ⟨_, rfl, again _ _⟩⟩⟩

/-! ## One element of a block compare -/

/-- What `BlockCompareForms` says of the pointer and BC. -/
structure State.ComparesElement (s t : State) (R : BitVec 3) (k : Word32) : Prop where
  apart : R ≠ 1 → s.MovedBy t (s.shortAddrReg R) k ∧ t.regBC = s.regBC - 1 ∧
    s.Wrote t .W (s.curSlot .xbc) (s.regBC - 1)
  shared : R = 1 → t.regBC = s.regBC + k.setWidth 16 - 1 ∧ ∀ i, 16 ≤ i →
    (t.reg (s.shortAddrReg R).reg).getLsbD i =
      (if (s.shortAddrReg R).narrow then s.reg (s.shortAddrReg R).reg
        else s.reg (s.shortAddrReg R).reg + k).getLsbD i
  kept : s.Kept { t with repeating := s.repeating }
    (fun p => p = (s.shortAddrReg R).reg ∨ p = (s.curSlot .xbc).reg) nowhere

theorem State.ComparesElement.closes {s u t : State} {R : BitVec 3} {k : Word32}
    (h : s.ComparesElement u R k) (hc : u.Closes t) (hu : u.repeating = s.repeating) :
    s.ComparesElement t R k where
  apart hR :=
    have ⟨hmoved, hcount, hwrote⟩ := h.apart hR
    ⟨hmoved.of_reg (hc.reg _), hc.regBC.trans hcount, hwrote.of_reg (hc.reg _)⟩
  shared hR := by
    obtain ⟨hcount, hupper⟩ := h.shared hR
    exact ⟨hc.regBC.trans hcount, fun i hi => by rw [hc.reg, hupper i hi]⟩
  kept := by
    have hk := h.kept
    rw [← hu] at hk
    exact hc.kept hk

/-- Only code 1 is XBC. -/
theorem shortAddrReg_ne_xbc (s : State) {R : BitVec 3} (hR : R ≠ 1) :
    (s.shortAddrReg R).reg ≠ (s.curSlot .xbc).reg := by
  match R with
  | 0 | 2 | 3 | 4 | 5 | 6 | 7 => nofun
  | 1 => exact absurd rfl hR

/-- The low half of a stepped address register. -/
theorem setWidth_stepAddrReg {s : State} {r : AddrReg} (hf : r.fits) (k : Word32) :
    ((s.stepAddrReg r k).reg r.reg).setWidth 16 = (s.reg r.reg).setWidth 16 + k.setWidth 16 := by
  have low (x : Word32) : (r.trunc x).setWidth 16 = x.setWidth 16 := by
    unfold AddrReg.trunc
    split
    · simp
    · rfl
  have hv : ((s.stepAddrReg r k).addrValue r).setWidth 16 = (s.addrValue r + k).setWidth 16 := by
    rw [State.stepAddrReg, addrValue_setAddrReg _ _ _ hf, low]
  rw [BitVec.setWidth_add _ _ (by decide)] at hv
  exact (low _).symm.trans (hv.trans (congrArg (· + _) (low _)))

/-- The upper half of a stepped address register. -/
theorem stepAddrReg_upper {s : State} {r : AddrReg} (hf : r.fits) (k : Word32) {i : Nat}
    (hi : 16 ≤ i) : ((s.stepAddrReg r k).reg r.reg).getLsbD i =
      (if r.narrow then s.reg r.reg else s.reg r.reg + k).getLsbD i := by
  split
  next hn => exact setAddrReg_upper s r _ hn i hi
  next hn =>
    have whole (u : State) : u.addrValue r = u.reg r.reg := if_neg hn
    have hv := addrValue_setAddrReg s r (s.addrValue r + k) hf
    rw [whole, AddrReg.trunc, if_neg hn, whole] at hv
    rw [State.stepAddrReg, whole, hv]

/-- The pointer steps, then BC counts down, also where XBC is the pointer (R119). -/
theorem compareElement_comparesElement (s : State) (R : BitVec 3) (k : Word32) :
    s.ComparesElement (s.compareElement R k) R k := by
  have hf := shortAddrReg_fits s R
  set u := s.stepAddrReg (s.shortAddrReg R) k
  have hs : s.Kept u (fun p => p = (s.shortAddrReg R).reg) nowhere := kept_stepAddrReg s _ k
  have hcur : u.curSlot .xbc = s.curSlot .xbc := curSlot_congr hs.max hs.rfp _
  have hc := kept_countDown u
  rw [hcur] at hc
  refine ⟨fun hR => ?_, fun hR => ?_, ?_⟩
  · have hne := shortAddrReg_ne_xbc s hR
    obtain ⟨hw, hcount⟩ := countDown_wrote_of hs.max hs.rfp (hs.registers _ hne.symm)
    exact ⟨movedBy_of_step hf rfl (hc.registers _ hne), hcount, hw⟩
  · subst hR
    obtain ⟨hw, hcount⟩ := countDown_wrote u
    have hbc (v : State) (hv : v.curSlot .xbc = s.curSlot .xbc) :
        v.regBC = (v.reg (s.shortAddrReg 1).reg).setWidth 16 := by
      rw [State.regBC, hv]
      exact (setWidth_of_slot v (s.shortAddrReg 1)).symm
    refine ⟨?_, fun i hi => ?_⟩
    · rw [State.compareElement, hcount, hbc u hcur, hbc s rfl, setWidth_stepAddrReg hf]
    · rw [← stepAddrReg_upper hf k hi]
      rw [hcur] at hw
      exact hw.rest i (.inr hi)
  · have hk : s.Kept u.countDown
        (fun p => p = (s.shortAddrReg R).reg ∨ p = (s.curSlot .xbc).reg) nowhere :=
      (hs.widen fun _ => .inl).trans (hc.widen fun _ => .inr)
    exact { hk with
      registers := fun p hp => (reg_congr rfl rfl rfl rfl rfl rfl p).trans (hk.registers p hp)
      repeating := rfl }

/-- The pointer and BC are all that the element writes. -/
theorem compareElement_keeps (s : State) (R : BitVec 3) (k : Word32) :
    (s.compareElement R k).f = s.f ∧ (s.compareElement R k).pc = s.pc ∧
      (s.compareElement R k).max = s.max ∧
      (s.compareElement R k).repeating = s.repeating := by
  simp [State.compareElement, State.countDown]

/-- CPI and CPD. -/
theorem blockCompare_compares (s : State) (sz : Size) (R : BitVec 3) (k : Word32) :
    let t := blockCompare sz R k s
    s.ComparesElement t R k ∧
      t.f = { s.elementFlags sz R with v := decide (t.regBC ≠ 0), n := true, c := s.f.c } ∧
      t.pc = s.pc ∧ t.repeating = s.repeating := by
  obtain ⟨hf, hpc, -, hr⟩ := compareElement_keeps s R k
  refine ⟨(compareElement_comparesElement s R k).closes (closes_withFlags _ _) hr, ?_, hpc, hr⟩
  rw [← hf]
  rfl

/-- One element of CPIR and CPDR. -/
theorem blockCompareRepeat_compares (s : State) (i : Repeating) (sz : Size) (R : BitVec 3)
    (k : Word32) :
    let t := blockCompareRepeat i sz R k s
    let fl := s.elementFlags sz R
    s.ComparesElement t R k ∧
      (fl.z = true ∨ t.regBC = 0 →
        t.f = { fl with v := decide (t.regBC ≠ 0), n := true, c := s.f.c } ∧ t.pc = s.pc ∧
          t.repeating = s.repeating) ∧
      (fl.z = false ∧ t.regBC ≠ 0 →
        t.f = s.f ∧ t.pc = s.pcOf (s.pc - 2) ∧ t.repeating = some i) := by
  intro t fl
  have helement := compareElement_comparesElement s R k
  obtain ⟨hf, hpc, hm, hr⟩ := compareElement_keeps s R k
  by_cases h : fl.z = true ∨ (s.compareElement R k).regBC = 0
  · have ht : t = blockCompare sz R k s := if_pos (by simpa using h)
    obtain ⟨hcompares, hends⟩ := blockCompare_compares s sz R k
    have hbc : t.regBC = (s.compareElement R k).regBC := by
      rw [ht]
      exact (closes_withFlags _ _).regBC
    rw [hbc]
    refine ⟨ht ▸ hcompares, fun _ => ?_, fun hgo => ?_⟩
    · rw [← hbc, ht]
      exact hends
    · rcases h with hz | hz
      · exact absurd (hz.symm.trans hgo.1) (by simp)
      · exact absurd hz hgo.2
  · have ht : t = (s.compareElement R k).again i := if_neg (by simpa using h)
    have hclose := closes_again (s.compareElement R k) i
    rw [ht, hclose.regBC]
    exact ⟨helement.closes hclose hr, fun hend => absurd hend h,
      fun _ => ⟨hf, again_pc_of hm hpc i, rfl⟩⟩

/-- Settles O51. -/
theorem blockCompareForms : Obligations.BlockCompareForms := by
  intro s sz R _ P fl moved ended
  have hmoved {t : State} {k : Word32} (h : s.ComparesElement t R k) : moved t k :=
    ⟨h.apart, h.shared, h.kept⟩
  have once (k : Word32) : let t := blockCompare sz R k s
      moved t k ∧ t.f = ended t ∧ t.pc = s.pc ∧ t.repeating = s.repeating :=
    have h := blockCompare_compares s sz R k
    ⟨hmoved h.1, h.2⟩
  have again (i : Repeating) (k : Word32) : let t := blockCompareRepeat i sz R k s
      moved t k ∧
        (fl.z = true ∨ t.regBC = 0 →
          t.f = ended t ∧ t.pc = s.pc ∧ t.repeating = s.repeating) ∧
        (fl.z = false ∧ t.regBC ≠ 0 →
          t.f = s.f ∧ t.pc = s.pcOf (s.pc - 2) ∧ t.repeating = some i) :=
    have h := blockCompareRepeat_compares s i sz R k
    ⟨hmoved h.1, h.2⟩
  simp only [List.forall_mem_cons, List.not_mem_nil, false_imp_iff, implies_true, and_true]
  exact ⟨⟨⟨_, rfl, once _⟩, ⟨_, rfl, once _⟩⟩, ⟨⟨_, rfl, again _ _⟩, ⟨_, rfl, again _ _⟩⟩⟩

end Sys2Proof.Machine
end

section
/-!
SUPPORT. What the environment offers beside requests: micro DMA (60_exceptions.md R268) and reset
(70_reset_and_hazards.md R280, R281).
-/

namespace Sys2Proof.Machine

/-! ## Micro DMA -/

section

variable (u : State) (n : BitVec 2) (mode : DmaMode) (sz : Size)

/-- What a micro DMA request does to memory: the copy of the element, in the rows that have
one. -/
def State.dmaTransfer : State :=
  match mode with
  | .dramRefresh | .counter => u
  | _ => u.memWrite sz (u.dmad.get n) (u.memRead sz (u.dmas.get n))

theorem dmaTransfer_keeps : (u.dmaTransfer n mode sz).pc = u.pc ∧
    (u.dmaTransfer n mode sz).f = u.f ∧
    u.Kept (u.dmaTransfer n mode sz) noReg (touches sz (u.dmad.get n)) := by
  unfold State.dmaTransfer
  split
  · exact ⟨rfl, rfl, .refl u⟩
  · exact ⟨rfl, rfl, .refl u⟩
  · exact ⟨memWrite_pc .., memWrite_f .., kept_memWrite ..⟩

/-- After the copy the request writes the registers of its channel and draws. -/
theorem microDma_eq : u.microDma n mode sz =
    let c := u.dmaTransfer n mode sz
    { c with
      dmas := match mode with
        | .memToIoInc | .dramRefresh =>
          c.dmas.set n (c.crFit (.dmas n) (u.dmas.get n + byteCount sz))
        | .memToIoDec => c.dmas.set n (c.crFit (.dmas n) (u.dmas.get n - byteCount sz))
        | .counter => c.dmas.set n (c.crFit (.dmas n) (u.dmas.get n + 1))
        | _ => c.dmas
      dmad := match mode with
        | .ioToMemInc => c.dmad.set n (c.crFit (.dmad n) (u.dmad.get n + byteCount sz))
        | .ioToMemDec => c.dmad.set n (c.crFit (.dmad n) (u.dmad.get n - byteCount sz))
        | _ => c.dmad
      dmac := c.dmac.set n (c.crFit (.dmac n) (u.free 32 0))
      dmam := c.dmam.set n (c.crFit (.dmam n) (u.free 32 1))
      draws := c.draws + 2 } := by
  cases mode <;> rfl

end

theorem step_of_accepted {s t : State} {o : Offer} {later : List Offer}
    (h : s.offers = o :: later) (ha : ({ s with offers := later } : State).accept o = some t) :
    step s = .next t := by
  simp [step, h, ha]

/-- Settles O8: the step is `microDma` over the state that has begun, which `microDma_eq` writes
out. -/
theorem microDmaTransfersOneElement : Obligations.MicroDmaTransfersOneElement := by
  intro s n mode sz later hwf hoffers source target
  set u : State := ({ s with offers := later } : State).begun
  have hstep : step s = .next (u.microDma n mode sz) := step_of_accepted hoffers rfl
  set c := u.dmaTransfer n mode sz
  obtain ⟨hpc, hf, hk⟩ : c.pc = u.pc ∧ c.f = u.f ∧ u.Kept c noReg (touches sz (u.dmad.get n)) :=
    dmaTransfer_keeps u n mode sz
  have hsource (v : Word32) : c.dmas.set n (c.crFit (.dmas n) v) = source v := by
    rw [hk.dmas, crFit_congr (s := s) hk.product]
    rfl
  have htarget (v : Word32) : c.dmad.set n (c.crFit (.dmad n) v) = target v := by
    rw [hk.dmad, crFit_congr (s := s) hk.product]
    rfl
  have hsr : c.sr = s.sr := by
    simp only [State.sr, hk.iff, hk.max, hk.rfp, hf]
    rfl
  have hread (a : Word32) : u.memRead sz a = s.begun.memRead sz a := memRead_congr rfl rfl rfl sz a
  refine ⟨_, hstep, ?_⟩
  rw [microDma_eq]
  refine ⟨hpc, hsr, hk.fAlt, hk.intnest, hk.halted, hk.repeating, hk.product, hk.offers,
    fun p => ?registers, fun m hm => ?channels, ?memory, ?dmas, ?dmad⟩
  case registers =>
    exact (reg_congr rfl rfl rfl rfl rfl rfl p).trans
      ((hk.registers p id).trans (reg_congr rfl rfl rfl rfl rfl rfl p))
  case channels =>
    exact ⟨(Four.get_set_other _ _ _ _ hm).trans (by rw [hk.dmac]; rfl),
      (Four.get_set_other _ _ _ _ hm).trans (by rw [hk.dmam]; rfl)⟩
  case memory =>
    have stores (hmode : c = u.memWrite sz (u.dmad.get n) (u.memRead sz (u.dmas.get n))) :
        s.Stored c sz (s.dmad.get n) (s.begun.memRead sz (s.dmas.get n)) := by
      rw [← hread, hmode]
      exact (stored_memWrite u sz _ _ hwf).of_cells (fun _ => rfl) rfl fun _ => rfl
    cases mode with
    | dramRefresh | counter => rfl
    | ioToMemInc | ioToMemDec | memToIoInc | memToIoDec | ioToIo =>
      exact ⟨stores rfl, fun a ha => hk.memory a ha⟩
  case dmas =>
    cases mode with
    | memToIoInc | dramRefresh | memToIoDec | counter => exact hsource _
    | ioToMemInc | ioToMemDec | ioToIo => exact hk.dmas
  case dmad =>
    cases mode with
    | ioToMemInc | ioToMemDec => exact htarget _
    | memToIoInc | dramRefresh | memToIoDec | counter | ioToIo => exact hk.dmad

/-! ## Reset -/

/-- The upper byte of SR: SYSM, IFF, MAX and RFP (R20). -/
theorem sr_upper (s : State) :
    s.sr.extractLsb' 8 8 = 1#1 ++ s.iff ++ BitVec.ofBool s.max ++ s.rfp :=
  BitVec.extractLsb'_append_eq_left

/-- Reset sets SYSM 1, IFF 7, MAX 1, RFP 0 (R281). -/
theorem resetSequence_sr (s : State) : s.resetSequence.sr.extractLsb' 8 8 = 0xF8 := by
  rw [sr_upper, show s.resetSequence.iff = 7 from rfl, show s.resetSequence.max = true from rfl,
    show s.resetSequence.rfp = 0 from rfl]
  decide

/-- A byte is read from memory, the map and the draws. -/
theorem byte_congr {s t : State} (hm : t.mem = s.mem) (hd : t.draws = s.draws)
    (hp : t.product = s.product) (a : Word32) : t.byte a = s.byte a :=
  memRead_congr hm hd hp .B a

/-- The pc of reset follows the bytes at the vector. -/
theorem resetVector_congr {s t : State} (hm : t.mem = s.mem) (hd : t.draws = s.draws)
    (hp : t.product = s.product) : t.resetVector = s.resetVector := by
  simp only [State.resetVector, byte_congr hm hd hp, hp]

/-! ### An activity that is cut off -/

theorem finish_entry_of_enabled {s : State} {L : BitVec 3} (V : BitVec 24)
    (h : s.enabled L = true) : s.finish (.entry L V) = s.begun.enterInterrupt L V :=
  if_pos h

theorem finish_entry_of_not_enabled {s : State} {L : BitVec 3} (V : BitVec 24)
    (h : ¬ s.enabled L = true) : s.finish (.entry L V) = s :=
  if_neg h

/-- An activity does not depend on the list of what was stored before it. -/
theorem finish_draws (s : State) (during : Activity) :
    (({ s with stores := [] } : State).finish during).draws = (s.finish during).draws := by
  cases during with
  | entry L V =>
    by_cases h : s.enabled L = true
    · rw [finish_entry_of_enabled V h, finish_entry_of_enabled (s := { s with stores := [] }) V h]
      rfl
    · rw [finish_entry_of_not_enabled V h,
        finish_entry_of_not_enabled (s := { s with stores := [] }) V h]
  | transfer n mode sz => rfl
  | instruction =>
    by_cases h : s.halted = true
    · simp only [State.finish, instruction_of_halted h]
      rw [instruction_of_halted (s := { s with stores := [] }) h]
    · have hx : instruction { s with stores := [] } = instruction s := by
        unfold instruction
        rw [if_neg h, if_neg h]
        rfl
      simp only [State.finish, hx]
      split <;> rfl

/-- A byte after stores in sequence: the last store to its address, which RAM takes. -/
def State.afterStores (s : State) (l : List (Word32 × Byte)) (a : Word32) : Byte :=
  match l.reverse.find? fun c => decide (cellOf c.1 = cellOf a) with
  | some c => if s.area a = .ram then c.2 else s.cell a
  | none => s.cell a

theorem afterStores_concat (s : State) (l : List (Word32 × Byte)) (c : Word32 × Byte)
    (a : Word32) : s.afterStores (l ++ [c]) a =
      if cellOf c.1 = cellOf a then (if s.area a = .ram then c.2 else s.cell a)
      else s.afterStores l a := by
  unfold State.afterStores
  rw [List.reverse_append, List.reverse_singleton, List.singleton_append, List.find?_cons]
  by_cases h : cellOf c.1 = cellOf a <;> simp [h]

/-- What RAM does not take stays as it was. -/
theorem afterStores_of_not_ram {s : State} {a : Word32} (h : s.area a ≠ .ram)
    (l : List (Word32 × Byte)) : s.afterStores l a = s.cell a := by
  unfold State.afterStores
  split
  · exact if_neg h
  · rfl

theorem cell_replay (s : State) (l : List (Word32 × Byte)) (a : Word32)
    (hwf : Memory.wf s.mem = true) : (s.replay l).cell a = s.afterStores l a := by
  induction l using List.reverseRecOn with
  | nil => rfl
  | append_singleton l c ih =>
    have hstep : s.replay (l ++ [c]) = (s.replay l).setByte c.1 c.2 := by
      simp [State.replay]
    rw [hstep, afterStores_concat]
    split
    next hc =>
      have hcell (t : State) : t.cell a = t.cell c.1 := by simp only [State.cell, hc]
      have harea : s.area a = (s.replay l).area c.1 := by
        rw [area_congr (replay_product l s)]
        simp only [State.area, hc]
      rw [hcell, cell_setByte_same _ _ _ (replay_wf l s hwf), ← hcell, ih, harea]
      split
      · rfl
      · next hram => exact afterStores_of_not_ram (harea ▸ hram) l
    next hc => rw [cell_setByte_other _ _ _ _ (Ne.symm hc), ih]

/-- Settles O9. -/
theorem resetLeavesStatedValues : Obligations.ResetLeavesStatedValues := by
  refine ⟨⟨by decide, rfl, rfl, by decide⟩, fun s later => ⟨fun ho => ?boundary,
    fun during done hwf ho => ?middle⟩⟩
  case boundary =>
    refine ⟨_, step_of_accepted ho rfl, ⟨resetSequence_sr _, rfl, rfl, rfl, ?_, rfl, rfl⟩, rfl⟩
    exact resetVector_congr (s := s.begun) rfl rfl rfl
  case middle =>
    set v : State := { s with offers := later }
    set u : State := ({ s with offers := later, stores := [] } : State).finish during with hu
    refine ⟨v.cutOff during done, u, step_of_accepted ho rfl, rfl,
      ⟨resetSequence_sr _, rfl, rfl, rfl, ?_, replay_offers _ v, replay_product _ v⟩,
      fun a => ?_, fun L V hd hL => ?_, fun n hd hh hr hdec => ?_⟩
    · exact resetVector_congr rfl (congrArg (· + 1) (finish_draws v during).symm)
        (replay_product _ v)
    · exact cell_replay v (u.stores.take done) a hwf
    · subst hd
      have hentry : u = ({ s with offers := later, stores := [] } : State).begun.enterInterrupt
          L V := finish_entry_of_enabled (s := { s with offers := later, stores := [] }) V hL
      rw [hentry]
      exact savePcThenSr_stores
        ({ s with offers := later, stores := [] } : State).begun
    · subst hd
      set w : State := { s with offers := later, stores := [] }
      have hswi : u = (w.advance 1).saveSrThenPc.enterException (n.setWidth 24) := by
        rw [hu, State.finish, instruction_of_decode (s := w) hh hr hdec]
        rfl
      rw [hswi, enterException_stores, saveSrThenPc_stores, BitVec.sub_add_cancel]
      rfl

end Sys2Proof.Machine
end

section
/-!
SUPPORT. The codes that the decoder rejects (30_encoding.md R80 to R85), and the fault of the step.
-/

namespace Sys2Proof

open Sys2Proof.Machine

/-! ## Why the decoder rejects -/

/-- Why what was parsed is no instruction, if it is none. -/
def verdict : Except Reject (Instr × List Byte) → Option Reject
  | .error e => some e
  | .ok (i, _) => illFormed i

theorem decode_of_verdict {bs : List Byte} {e : Reject} (h : verdict (parse bs) = some e) :
    decode bs = .error e := by
  unfold decode
  cases hp : parse bs with
  | error e' =>
    rw [hp] at h
    cases h
    rfl
  | ok p =>
    obtain ⟨i, rest⟩ := p
    rw [hp] at h
    replace h : illFormed i = some e := h
    simp only [h]

theorem decode_of_verdict_ne_none {bs : List Byte} (h : verdict (parse bs) ≠ none) :
    ∃ why, decode bs = .error why := by
  obtain ⟨e, he⟩ := Option.ne_none_iff_exists'.mp h
  exact ⟨e, decode_of_verdict he⟩

/-- The byte is in one of the ranges. -/
def Among (op : Byte) (ranges : List (Nat × Nat)) : Prop :=
  ∃ q ∈ ranges, q.1 ≤ op.toNat ∧ op.toNat ≤ q.2

/-- What holds of every number of the ranges holds of the byte. -/
theorem Among.elim {op : Byte} {ranges : List (Nat × Nat)} {P : Byte → Prop} (h : Among op ranges)
    (hall : ∀ q ∈ ranges, ∀ k, q.1 ≤ k → k ≤ q.2 → P (BitVec.ofNat 8 k)) : P op := by
  obtain ⟨q, hq, hlo, hhi⟩ := h
  rw [eq_ofNat_of_toNat (rfl : op.toNat = op.toNat)]
  exact hall q hq _ hlo hhi

/-! ## First bytes -/

theorem verdict_blank_first {op : Byte} (t : List Byte)
    (h : Among op [(0x1F, 0x1F), (0x50, 0x57), (0xC6, 0xC6), (0xD6, 0xD6), (0xE6, 0xE6),
      (0xF6, 0xF6)]) : verdict (parse (op :: t)) = some .blankFirst := by
  refine h.elim (P := fun op => verdict (parse (op :: t)) = some .blankFirst) ?_
  simp only [List.forall_mem_cons, List.not_mem_nil, false_imp_iff, implies_true, and_true]
  refine ⟨?_, ?_, ?_, ?_, ?_, ?_⟩ <;> intro k hlo hhi <;> interval_cases k <;> rfl

theorem verdict_number_above_seven {n : Byte} (t : List Byte) (h : 7 < n.toNat) :
    verdict (parse (0x06 :: n :: t)) = some .numberAboveSeven ∧
      verdict (parse (0x17 :: n :: t)) = some .numberAboveSeven := by
  have htake : take3 (n :: t) = .error .numberAboveSeven := if_pos h
  have read (f : BitVec 3 × List Byte → Except Reject (Instr × List Byte)) :
      verdict (take3 (n :: t) >>= f) = some .numberAboveSeven := by
    rw [htake]
    rfl
  exact ⟨read _, read _⟩

/-! ## After a REG prefix -/

theorem parseReg_blank (sz : Size) (r : RegOp) {op : Byte} (t : List Byte)
    (h : Among op [(0x00, 0x02), (0x11, 0x11), (0x15, 0x15), (0x17, 0x18), (0x1D, 0x1F),
      (0x25, 0x27), (0x2D, 0x2D), (0x35, 0x37)]) :
    parseReg sz r op t = .error .blankSecond := by
  refine h.elim (P := fun op => parseReg sz r op t = .error .blankSecond) ?_
  simp only [List.forall_mem_cons, List.not_mem_nil, false_imp_iff, implies_true, and_true]
  refine ⟨?_, ?_, ?_, ?_, ?_, ?_, ?_, ?_⟩ <;> intro k hlo hhi <;> interval_cases k <;> rfl

theorem parseReg_dummy (sz : Size) (r : RegOp) {op : Byte} (t : List Byte)
    (h : Among op [(0x1A, 0x1B), (0x3B, 0x3B), (0x3F, 0x3F)]) :
    parseReg sz r op t = .error .dummySecond := by
  refine h.elim (P := fun op => parseReg sz r op t = .error .dummySecond) ?_
  simp only [List.forall_mem_cons, List.not_mem_nil, false_imp_iff, implies_true, and_true]
  refine ⟨?_, ?_, ?_⟩ <;> intro k hlo hhi <;> interval_cases k <;> rfl

/-- Operand bytes enough for any instruction of a REG prefix. -/
theorem exists_four {t : List Byte} (h : 4 ≤ t.length) : ∃ a b c d u, t = a :: b :: c :: d :: u :=
  match t, h with
  | a :: b :: c :: d :: u, _ => ⟨a, b, c, d, u, rfl⟩

theorem verdict_reg_long (r : RegOp) {op : Byte} {t : List Byte} (ht : 4 ≤ t.length)
    (h : Among op [(0x06, 0x0B), (0x1C, 0x1C), (0x20, 0x24), (0x28, 0x2C), (0x30, 0x34),
      (0x40, 0x5F), (0x70, 0x7F), (0xB8, 0xBF), (0xD8, 0xDF)]) :
    verdict (parseReg .L r op t) = some .sizeNotListed := by
  obtain ⟨a, b, c, d, u, rfl⟩ := exists_four ht
  refine h.elim (P := fun op =>
    verdict (parseReg .L r op (a :: b :: c :: d :: u)) = some .sizeNotListed) ?_
  simp only [List.forall_mem_cons, List.not_mem_nil, false_imp_iff, implies_true, and_true]
  refine ⟨?_, ?_, ?_, ?_, ?_, ?_, ?_, ?_, ?_⟩ <;> intro k hlo hhi <;> interval_cases k <;> rfl

/-- A row of one size only refuses the others before it reads on. -/
theorem parseReg_only {sz : Size} (r : RegOp) {op : Byte} (t : List Byte)
    (h : (sz ≠ .L ∧ Among op [(0x0C, 0x0D)]) ∨ (sz ≠ .B ∧ op = 0x10) ∨
      (sz ≠ .W ∧ Among op [(0x0E, 0x0F), (0x16, 0x16), (0x19, 0x19), (0x38, 0x3A),
        (0x3C, 0x3E)])) : parseReg sz r op t = .error .sizeNotListed := by
  rcases h with ⟨hsz, h⟩ | ⟨hsz, rfl⟩ | ⟨hsz, h⟩
  · refine h.elim (P := fun op => parseReg sz r op t = .error .sizeNotListed) ?_
    simp only [List.forall_mem_cons, List.not_mem_nil, false_imp_iff, implies_true, and_true]
    intro k hlo hhi
    interval_cases k <;> exact if_neg hsz
  · exact if_neg hsz
  · refine h.elim (P := fun op => parseReg sz r op t = .error .sizeNotListed) ?_
    simp only [List.forall_mem_cons, List.not_mem_nil, false_imp_iff, implies_true, and_true]
    refine ⟨?_, ?_, ?_, ?_, ?_⟩ <;> intro k hlo hhi <;> interval_cases k <;> exact if_neg hsz

/-- EXTZ, EXTS and PAA of a byte register. -/
theorem verdict_reg_byte (r : RegOp) {op : Byte} (t : List Byte) (h : Among op [(0x12, 0x14)]) :
    verdict (parseReg .B r op t) = some .sizeNotListed := by
  refine h.elim (P := fun op => verdict (parseReg .B r op t) = some .sizeNotListed) ?_
  simp only [List.forall_mem_cons, List.not_mem_nil, false_imp_iff, implies_true, and_true]
  intro k hlo hhi
  interval_cases k <;> rfl

/-! ## Register codes -/

/-- Nothing of the set is answered. -/
def Refuses (x : Except Reject (Instr × List Byte)) : Prop :=
  ∀ i rest, x = .ok (i, rest) → illFormed i ≠ none

namespace Refuses

variable {x : Except Reject (Instr × List Byte)} {t : List Byte}

theorem error {e : Reject} : Refuses (.error e) := fun _ _ h => by cases h

theorem ok {i : Instr} (h : illFormed i ≠ none) : Refuses (.ok (i, t)) := by
  rintro _ _ ⟨⟩
  exact h

theorem bind {α : Type} {r : Except Reject α} {f : α → Except Reject (Instr × List Byte)}
    (h : ∀ a, Refuses (f a)) : Refuses (r >>= f) := by
  intro i rest hx
  obtain ⟨a, -, hf⟩ := bind_eq_ok.mp hx
  exact h a i rest hf

theorem only {want sz : Size} (h : sz = want → Refuses x) : Refuses (onlyAt want sz x) := by
  unfold onlyAt
  split
  · exact h ‹_›
  · exact error

theorem decode {bs : List Byte} (h : Refuses (parse bs)) : ∃ why, decode bs = .error why := by
  refine decode_of_verdict_ne_none ?_
  cases hp : parse bs with
  | error e => nofun
  | ok p => exact h p.1 p.2 hp

end Refuses

theorem firstOf_second {a b : Option Reject} {l : List (Option Reject)} (h : b ≠ none) :
    firstOf (a :: b :: l) ≠ none := by
  cases a with
  | some e => nofun
  | none =>
    cases b with
    | some e => nofun
    | none => exact absurd rfl h

/-- A code that is no multiple of the size is none of a multiple of the size either. -/
theorem codeOk_of_dvd {sz sz' : Size} {code : BitVec 8} (hd : sz.bytes ∣ sz'.bytes)
    (h : code.toNat % sz.bytes ≠ 0) : codeOk sz' code ≠ none := by
  have h' : code.toNat % sz'.bytes ≠ 0 := fun hz =>
    h (Nat.mod_eq_zero_of_dvd (hd.trans (Nat.dvd_of_mod_eq_zero hz)))
  rw [codeOk, if_neg h']
  nofun

/-- After an 8-bit register code that is no multiple of the size nothing is read (R65). -/
theorem parseReg_refuses {sz : Size} {code : BitVec 8} (h : code.toNat % sz.bytes ≠ 0)
    (op : Byte) (t : List Byte) : Refuses (parseReg sz (.ext code) op t) := by
  have hreg : regOk sz (.ext code) ≠ none := codeOk_of_dvd (Nat.dvd_refl _) h
  have hdouble : doubleOk sz (.ext code) ≠ none :=
    codeOk_of_dvd (by cases sz <;> decide) h
  have at_ {want : Size} (hsz : sz = want) : regOk want (.ext code) ≠ none := hsz ▸ hreg
  have mula (hsz : sz = .W) : regOk .L (.ext code) ≠ none :=
    codeOk_of_dvd (by rw [hsz]; decide) h
  unfold parseReg
  extract_lets R
  split
  all_goals try exact .error
  all_goals try exact .ok hreg
  all_goals try exact .ok (firstOf_second hreg)
  all_goals try exact .bind fun _ => .ok hreg
  all_goals try exact .bind fun _ => .ok (firstOf_second hreg)
  all_goals try exact .bind fun _ => .ok (firstOf_second hdouble)
  all_goals try exact .only fun hsz => .ok (at_ hsz)
  all_goals try exact .only fun hsz => .ok (mula hsz)
  all_goals try exact .only fun hsz => .bind fun _ => .ok (at_ hsz)
  split
  all_goals try exact .error
  all_goals try exact .ok hreg
  all_goals exact .ok (firstOf_second hreg)

/-! ## After a SRC prefix -/

theorem parseSrc_blank (sz : Size) (m : MemOp) {op : Byte} (t : List Byte)
    (h : Among op [(0x00, 0x03), (0x05, 0x05), (0x08, 0x0F), (0x18, 0x18), (0x1A, 0x1F),
      (0x28, 0x2F), (0x70, 0x77)]) : parseSrc sz m op t = .error .blankSecond := by
  refine h.elim (P := fun op => parseSrc sz m op t = .error .blankSecond) ?_
  simp only [List.forall_mem_cons, List.not_mem_nil, false_imp_iff, implies_true, and_true]
  refine ⟨?_, ?_, ?_, ?_, ?_, ?_, ?_⟩ <;> intro k hlo hhi <;> interval_cases k <;> rfl

theorem verdict_src_long (m : MemOp) {op : Byte} {t : List Byte} (ht : 4 ≤ t.length)
    (h : Among op [(0x04, 0x04), (0x19, 0x19), (0x30, 0x6F), (0x78, 0x7F)]) :
    verdict (parseSrc .L m op t) = some .sizeNotListed := by
  obtain ⟨a, b, c, d, u, rfl⟩ := exists_four ht
  refine h.elim (P := fun op =>
    verdict (parseSrc .L m op (a :: b :: c :: d :: u)) = some .sizeNotListed) ?_
  simp only [List.forall_mem_cons, List.not_mem_nil, false_imp_iff, implies_true, and_true]
  refine ⟨?_, ?_, ?_, ?_⟩ <;> intro k hlo hhi <;> interval_cases k <;> rfl

/-- RLD and RRD are byte operations. -/
theorem parseSrc_only {sz : Size} (m : MemOp) {op : Byte} (t : List Byte) (hsz : sz ≠ .B)
    (h : Among op [(0x06, 0x07)]) : parseSrc sz m op t = .error .sizeNotListed := by
  refine h.elim (P := fun op => parseSrc sz m op t = .error .sizeNotListed) ?_
  simp only [List.forall_mem_cons, List.not_mem_nil, false_imp_iff, implies_true, and_true]
  intro k hlo hhi
  interval_cases k <;> exact if_neg hsz

theorem parseBlock_refuses {sz : Size} {m : MemOp} {i : BlockPair → Instr} (t : List Byte)
    (hi : ∀ p, illFormed (i p) = sizeIn [.B, .W] sz)
    (h : sz = .L ∨ (∀ R, m ≠ .ind R) ∨ (m ≠ .ind 3 ∧ m ≠ .ind 5)) :
    Refuses (parseBlock m t i) := by
  have long (hsz : sz = .L) (p : BlockPair) : illFormed (i p) ≠ none := by
    rw [hi, hsz]
    nofun
  unfold parseBlock
  split
  next h3 =>
    rcases h with hsz | hm | ⟨hm, -⟩
    · exact .ok (long hsz _)
    · exact absurd h3 (hm 3)
    · exact absurd h3 hm
  split
  next h5 =>
    rcases h with hsz | hm | ⟨-, hm⟩
    · exact .ok (long hsz _)
    · exact absurd h5 (hm 5)
    · exact absurd h5 hm
  · exact .error

theorem parseBlockCp_refuses {sz : Size} {m : MemOp} {i : BitVec 3 → Instr} (t : List Byte)
    (hi : ∀ R, illFormed (i R) = sizeIn [.B, .W] sz) (h : sz = .L ∨ ∀ R, m ≠ .ind R) :
    Refuses (parseBlockCp m t i) := by
  unfold parseBlockCp
  split
  next R =>
    rcases h with hsz | hm
    · exact .ok (by rw [hi, hsz]; nofun)
    · exact absurd rfl (hm R)
  · exact .error

/-- A block instruction at long-word size or after a prefix that it is not listed for. -/
theorem parseSrc_block_refuses {sz : Size} {m : MemOp} {op : Byte} (t : List Byte)
    (hop : Among op [(0x10, 0x17)])
    (h : sz = .L ∨ (∀ R, m ≠ .ind R) ∨ (op.toNat < 0x14 ∧ m ≠ .ind 3 ∧ m ≠ .ind 5)) :
    Refuses (parseSrc sz m op t) := by
  refine hop.elim (P := fun op => (sz = .L ∨ (∀ R, m ≠ .ind R) ∨
    (op.toNat < 0x14 ∧ m ≠ .ind 3 ∧ m ≠ .ind 5)) → Refuses (parseSrc sz m op t)) ?_ h
  simp only [List.forall_mem_cons, List.not_mem_nil, false_imp_iff, implies_true, and_true]
  intro k hlo hhi h
  have hload := h.imp_right (Or.imp_right And.right)
  rcases Nat.lt_or_ge k 0x14 with hk | hk
  · interval_cases k <;> exact parseBlock_refuses t (fun _ => rfl) hload
  · have hcompare : sz = .L ∨ ∀ R, m ≠ .ind R := by
      rcases h with hsz | hm | ⟨hlt, -⟩
      · exact .inl hsz
      · exact .inr hm
      · rw [BitVec.toNat_ofNat] at hlt
        omega
    interval_cases k <;> exact parseBlockCp_refuses t (fun _ => rfl) hcompare

/-! ## After a DST prefix -/

theorem parseDst_blank (b0 : Byte) (m : MemOp) {op : Byte} (t : List Byte)
    (h : Among op [(0x01, 0x01), (0x03, 0x03), (0x05, 0x05), (0x07, 0x13), (0x15, 0x15),
      (0x17, 0x1F), (0x2D, 0x2F), (0x38, 0x3F), (0x48, 0x4F), (0x58, 0x5F), (0x68, 0x7F)]) :
    parseDst b0 m op t = .error .blankSecond := by
  refine h.elim (P := fun op => parseDst b0 m op t = .error .blankSecond) ?_
  simp only [List.forall_mem_cons, List.not_mem_nil, false_imp_iff, implies_true, and_true]
  refine ⟨?_, ?_, ?_, ?_, ?_, ?_, ?_, ?_, ?_, ?_, ?_⟩ <;> intro k hlo hhi <;>
    interval_cases k <;> rfl

theorem modeBits_mask (m : MemOp) : modeBits m &&& 0xB0 = 0 := by
  have register : ∀ R : BitVec 3, low3 0x00 R &&& 0xB0 = 0 ∧ low3 0x08 R &&& 0xB0 = 0 := by decide
  cases m with
  | ind R => exact (register R).1
  | disp8 R d => exact (register R).2
  | _ =>
    simp only [modeBits]
    rfl

/-- The prefix B0H is that of the mode `(XWA)`. -/
theorem eq_ind_zero_of_dstByte {m : MemOp} (h : 0xB0 ||| modeBits m = 0xB0) : m = .ind 0 := by
  refine eq_ind_zero_of_modeBits ?_
  have hmask := modeBits_mask m
  revert h hmask
  generalize modeBits m = b
  revert b
  decide

/-- RET cc after another prefix than B0H (R82). -/
theorem parseDst_ret {m : MemOp} {op : Byte} (t : List Byte) (h : Among op [(0xF0, 0xFF)])
    (hm : m ≠ .ind 0) :
    parseDst (0xB0 ||| modeBits m) m op t = .error .prefixNotAllowed := by
  have hb : ¬ 0xB0 ||| modeBits m = 0xB0 := fun hb => hm (eq_ind_zero_of_dstByte hb)
  refine h.elim (P := fun op => parseDst (0xB0 ||| modeBits m) m op t =
    .error .prefixNotAllowed) ?_
  simp only [List.forall_mem_cons, List.not_mem_nil, false_imp_iff, implies_true, and_true]
  intro k hlo hhi
  interval_cases k <;> exact if_neg hb

/-! ## Sub-bytes -/

theorem toNat_setWidth_two (x : Byte) : (x.setWidth 2).toNat = x.toNat % 4 :=
  BitVec.toNat_setWidth 2 x

/-- The sub-bytes that no mode has (R72, R73). -/
theorem parseSubMode_undefined {x : Byte} (t : List Byte)
    (h : x.toNat % 4 = 2 ∨ (x.toNat % 4 = 3 ∧ x ≠ 0x03 ∧ x ≠ 0x07)) :
    parseSubMode (x :: t) = .error .subByteUndefined := by
  have htake : take8 (x :: t) = .ok (x, t) := rfl
  rw [parseSubMode, bind_of_ok htake]
  dsimp only
  rw [toNat_setWidth_two]
  rcases h with h | ⟨h, h3, h7⟩ <;> rw [h]
  · rfl
  · exact (if_neg h3).trans (if_neg h7)

theorem verdict_subByte {p x : Byte} (hp : p ∈ ([0xC3, 0xD3, 0xE3, 0xF3] : List Byte))
    (t : List Byte) (h : x.toNat % 4 = 2 ∨
      (x.toNat % 4 = 3 ∧ x ≠ 0x03 ∧ x ≠ 0x07 ∧ ¬ (p = 0xF3 ∧ x = 0x13))) :
    verdict (parse (p :: x :: t)) = some .subByteUndefined := by
  have hsub := parseSubMode_undefined t (h.imp_right fun ⟨h3, hx⟩ => ⟨h3, hx.1, hx.2.1⟩)
  have read (f : MemOp × List Byte → Except Reject (Instr × List Byte)) :
      verdict (parseSubMode (x :: t) >>= f) = some .subByteUndefined := by
    rw [hsub]
    rfl
  simp only [List.mem_cons, List.not_mem_nil, or_false] at hp
  rcases hp with rfl | rfl | rfl | rfl
  · exact read _
  · exact read _
  · exact read _
  · have hldar : ¬ ((0xF3 : Byte) = 0xF3 ∧ (x :: t).head? = some 0x13) := by
      rintro ⟨-, hx⟩
      obtain rfl : x = 0x13 := by simpa using hx
      rcases h with h | ⟨-, -, -, h⟩
      · exact absurd h (by decide)
      · exact h ⟨rfl, rfl⟩
    have hparse : parse (0xF3 :: x :: t) = parseMode 0xF3 (x :: t) >>= _ := if_neg hldar
    rw [hparse]
    exact read _

theorem verdict_ldar {x y op : Byte} (t : List Byte)
    (h : ¬ Among op [(0x20, 0x27), (0x30, 0x37)]) :
    verdict (parse (0xF3 :: 0x13 :: x :: y :: op :: t)) = some .subByteUndefined := by
  have h4 : op.toNat / 8 ≠ 4 := fun h4 =>
    h ⟨(0x20, 0x27), by simp, by simp only; omega, by simp only; omega⟩
  have h6 : op.toNat / 8 ≠ 6 := fun h6 =>
    h ⟨(0x30, 0x37), by simp, by simp only; omega, by simp only; omega⟩
  have hldar : parseLdar (x :: y :: op :: t) = .error .subByteUndefined := by
    have hword : take16 (x :: y :: op :: t) = .ok (y ++ x, op :: t) := rfl
    have hbyte : take8 (op :: t) = .ok (op, t) := rfl
    rw [parseLdar, bind_of_ok hword]
    dsimp only
    rw [bind_of_ok hbyte]
    dsimp only
    split
    · exact absurd ‹_› h4
    · exact absurd ‹_› h6
    · rfl
  exact congrArg verdict hldar

theorem verdict_step {p x : Byte}
    (hp : p ∈ ([0xC4, 0xD4, 0xE4, 0xF4, 0xC5, 0xD5, 0xE5, 0xF5] : List Byte)) (t : List Byte)
    (h : x.toNat % 4 = 3) : verdict (parse (p :: x :: t)) = some .stepUndefined := by
  have hstep : parseStep x = .error .stepUndefined := by
    rw [parseStep, toNat_setWidth_two, h]
    rfl
  have read (i : Step → MemOp) (f : MemOp × List Byte → Except Reject (Instr × List Byte)) :
      verdict ((parseStep x >>= fun st => .ok (i st, t)) >>= f) = some .stepUndefined := by
    rw [hstep]
    rfl
  simp only [List.mem_cons, List.not_mem_nil, or_false] at hp
  rcases hp with rfl | rfl | rfl | rfl | rfl | rfl | rfl | rfl
  · exact read (.preDec _) _
  · exact read (.preDec _) _
  · exact read (.preDec _) _
  · exact read (.preDec _) _
  · exact read (.postInc _) _
  · exact read (.postInc _) _
  · exact read (.postInc _) _
  · exact read (.postInc _) _

/-! ## The fault of the step -/

theorem instruction_of_reject {s : State} {why : Reject} (hh : s.halted = false)
    (hr : s.repeating = none) (hd : decode s.fetchBytes = .error why) :
    instruction s = .fault (.undefinedCode why) := by
  simp [instruction, hh, hr, hd]

/-- Settles O4. -/
theorem blankAndDummyCodesStop : Obligations.BlankAndDummyCodesStop := by
  refine ⟨fun s why hh hr hd => ⟨fun ho => ?_, fun o later ho ha => ?_⟩,
    fun rest => ⟨fun op h => ?first, ?dummy, fun n hn => ?number, fun sz r op => ?reg,
      fun sz code h => ?code, fun sz m op => ?src, fun m op => ?dst, fun p hp x h => ?sub,
      fun x y op h => ?ldar, fun p hp x h => ?step⟩⟩
  · rw [step_of_no_offer ho]
    exact instruction_of_reject hh hr hd
  · rw [step_of_not_accepted ho ha]
    exact instruction_of_reject (s := { s with offers := later }) hh hr hd
  case first => exact decode_of_verdict (verdict_blank_first rest h)
  case dummy => exact decode_of_verdict rfl
  case number =>
    obtain ⟨hei, hldf⟩ := verdict_number_above_seven rest hn
    exact ⟨decode_of_verdict hei, decode_of_verdict hldf⟩
  case reg =>
    refine ⟨fun h => ?_, fun h => ?_, fun ht h => ?_⟩ <;> refine decode_of_verdict ?_ <;>
      rw [parse_regOp]
    · exact congrArg verdict (parseReg_blank sz r rest h)
    · exact congrArg verdict (parseReg_dummy sz r rest h)
    · rcases h with ⟨rfl, h⟩ | ⟨rfl, h⟩ | h
      · exact verdict_reg_long r ht h
      · exact verdict_reg_byte r rest h
      · exact congrArg verdict (parseReg_only r rest h)
  case code =>
    match rest with
    | [] =>
      refine ⟨.truncated, decode_of_verdict ?_⟩
      cases sz <;> rfl
    | op :: t =>
      refine Refuses.decode ?_
      rw [parse_regPrefix]
      exact parseReg_refuses h op t
  case src =>
    refine ⟨fun h => decode_of_verdict ?_, fun ht h => decode_of_verdict ?_,
      fun hop h => Refuses.decode ?_⟩ <;> rw [parse_srcOp]
    · exact congrArg verdict (parseSrc_blank sz m rest h)
    · rcases h with ⟨rfl, h⟩ | ⟨hsz, h⟩
      · exact verdict_src_long m ht h
      · exact congrArg verdict (parseSrc_only m rest hsz h)
    · exact parseSrc_block_refuses rest hop h
  case dst =>
    refine ⟨fun h => decode_of_verdict ?_, fun h hm => decode_of_verdict ?_⟩ <;> rw [parse_dstOp]
    · exact congrArg verdict (parseDst_blank _ m rest h)
    · exact congrArg verdict (parseDst_ret rest h hm)
  case sub => exact decode_of_verdict (verdict_subByte hp rest h)
  case ldar => exact decode_of_verdict (verdict_ldar rest h)
  case step => exact decode_of_verdict (verdict_step hp rest h)

end Sys2Proof
end
